-- ==== Sys2Proof/Word.lean ====
section
/-! DEFINITION. The widths of the PXE's values (00_scope R9, R10) and the small data types the whole model speaks of:
a stored pixel, a colour delivered to the host, the encoder's cursor, an event of the output trace. -/

namespace Sys2Proof

/-- A command word `CMD[71:0]` (30_encoding R63). -/
abbrev CmdWord := BitVec 72

/-- `x`, `y`, `linearIndex`, `numLeds`, `ledsPerRow`, the result register `RN` and the cursor's `PI`: `IW` = 16 bits
(00_scope R9, D2). -/
abbrev Index := BitVec 16

/-- An 8-bit channel, scaling, brightness, duty-cycle or serial byte (00_scope R9: `IWC`, `SW`, `DW`). -/
abbrev Byte := BitVec 8

/-- A stored channel value: `CW` = 5 bits (00_scope R9). -/
abbrev Level := BitVec 5

/-- A pixel: "a packed triple of 5-bit unsigned channel values (red, green, blue)" (20_memory R46). Fields are moved by
name; the packed layout is unobservable. -/
structure Pixel where
  red   : Level
  green : Level
  blue  : Level
deriving DecidableEq, Repr, Inhabited

/-- The pixel `(0, 0, 0)`: what every word holds after `NEW` (40_construct R80). -/
def Pixel.black : Pixel := ⟨0#5, 0#5, 0#5⟩

/-- A colour as the host gives it and as `RD` holds it: three 8-bit channels (10_state R24). -/
structure Rgb where
  r : Byte
  g : Byte
  b : Byte
deriving DecidableEq, Repr, Inhabited

/-- The channel being sent, the cursor's `CH`: 0 = green, 1 = red, 2 = blue; "value 3 never occurs" (10_state R31). -/
inductive Channel where
  | green
  | red
  | blue
deriving DecidableEq, Repr, Inhabited

/-- The hidden sequencing state of the encoder (10_state R31). -/
structure Cursor where
  /-- `PI`: the physical index of the pixel being sent. -/
  pi : Index
  /-- `CH`: the channel being sent. -/
  ch : Channel
  /-- `BI`: how many bits of the current channel are already sent. -/
  bi : BitVec 3
  /-- `SR`: the not yet sent bits, left-aligned, so that `SR[7]` is the next bit. -/
  sr : Byte
deriving DecidableEq, Repr, Inhabited

/-- An event of the output trace (00_scope R7): the only things that leave the block beside its result and status
registers. -/
inductive Event where
  | csEnter
  | byte (b : Byte)
  | csExit
deriving DecidableEq, Repr

end Sys2Proof
end

