-- ==== Sys2Proof/Syntax.lean ====
section
/-! DEFINITION. The command set: one constructor per row of spec/opcode_table.json, with the operands of 30_encoding R64
(their widths are R63's fields, so every term is an encodable command). -/

namespace Sys2Proof

/-- The ten commands (30_encoding R65). Operands are taken from their fields as unsigned integers (R66). -/
inductive Instr where
  /-- `NEW numLeds, ledsPerRow, xReversed, alternating` (40_construct R80). -/
  | new (numLeds ledsPerRow : Index) (xReversed alternating : Bool)
  /-- `SETXY x, y, r, g, b` (43_pixel_write R113). -/
  | setxy (x y : Index) (r g b : Byte)
  /-- `SET i, r, g, b` (43_pixel_write R114). -/
  | setlin (i : Index) (r g b : Byte)
  /-- `SETSXY x, y, r, g, b, scaling` (43_pixel_write R115). -/
  | setsxy (x y : Index) (r g b scaling : Byte)
  /-- `SETDXY x, y, r, g, b, brightness` (43_pixel_write R116). -/
  | setdxy (x y : Index) (r g b brightness : Byte)
  /-- `SETD i, r, g, b, brightness` (43_pixel_write R117). -/
  | setd (i : Index) (r g b brightness : Byte)
  /-- `GETXY x, y` (44_pixel_read R125). -/
  | getxy (x y : Index)
  /-- `GET i` (44_pixel_read R126). -/
  | getlin (i : Index)
  /-- `GETN` (40_construct R84). -/
  | getn
  /-- `SHOW` (45_bitstream R131). -/
  | showFrame
deriving DecidableEq, Repr

end Sys2Proof
end

