-- ==== Sys2Proof/WellFormed.lean ====
section
/-! DEFINITION. Well-formedness. An `Instr` carries its operands at the width of their fields, and "the full 16-bit range of
`A` and `B` and the full 8-bit range of `R`, `G`, `BL`, `AUX` are legal operand values" (30_encoding R66), so every `Instr`
is well formed. What can be ill formed is a line of the command script, whose operands are plain numbers: "An operand that
does not fit its field is an assembly error, not a truncation" (30_encoding R70, 93_implementation_defined I11). -/

namespace Sys2Proof

/-- The names a script line may begin with: the ten mnemonics (30_encoding R70) and the pseudo-instructions' own names
`FLUSH`, `WRITE`, `READ` (R71). -/
inductive AsmName where
  | new | setxy | set | setsxy | setdxy | setd | getxy | get | getn | showFrame | flush | write | read
deriving DecidableEq, Repr

/-- One line of a command script: a name and its operands in order, as numbers (30_encoding R70). -/
structure AsmLine where
  name     : AsmName
  operands : List Nat
deriving DecidableEq, Repr

/-- A field an operand goes into: `A` or `B` (16 bits), `R`, `G`, `BL` or `AUX` (8 bits), or a flag of `NEW` (one bit,
"written `0` or `1`"). -/
inductive AsmField where
  | word
  | byte
  | flag
deriving DecidableEq, Repr

/-- The number fits its field (30_encoding R70). -/
def AsmField.fits : AsmField → Nat → Bool
  | .word, n => n < 65536
  | .byte, n => n < 256
  | .flag, n => n < 2

/-- The operand lists a name admits (30_encoding R70; the shorter forms of `NEW` and the two forms of `WRITE`: R71). -/
def AsmName.forms : AsmName → List (List AsmField)
  | .new       => [[.word], [.word, .word], [.word, .word, .flag], [.word, .word, .flag, .flag]]
  | .setxy     => [[.word, .word, .byte, .byte, .byte]]
  | .set       => [[.word, .byte, .byte, .byte]]
  | .setsxy    => [[.word, .word, .byte, .byte, .byte, .byte]]
  | .setdxy    => [[.word, .word, .byte, .byte, .byte, .byte]]
  | .setd      => [[.word, .byte, .byte, .byte, .byte]]
  | .getxy     => [[.word, .word]]
  | .get       => [[.word]]
  | .getn      => [[]]
  | .showFrame => [[]]
  | .flush     => [[]]
  | .write     => [[.word, .word, .byte, .byte, .byte], [.word, .word, .byte, .byte, .byte, .byte]]
  | .read      => [[.word, .word]]

/-- The operands match one operand list: as many, and each fits its field. -/
def fieldsFit : List AsmField → List Nat → Bool
  | [], []           => true
  | f :: fs, n :: ns => f.fits n && fieldsFit fs ns
  | _, _             => false

/-- A script line is well formed: its operands match one of its name's forms, and each fits its field. -/
def AsmLine.wf (l : AsmLine) : Bool := l.name.forms.any fun fs => fieldsFit fs l.operands

end Sys2Proof
end

