-- ==== Sys2Proof/Decode.lean ====
section
/-! DEFINITION. Decoding and encoding of the 72-bit command word (30_encoding R63 to R69, R72), its byte form, and the
reading of a word as spec/opcode_table.json numbers its bits. The decoder is total: a word is one of the ten commands, or
reserved, by name. -/

namespace Sys2Proof

/-- Why a word or a byte string is no command. -/
inductive DecodeError where
  /-- The opcode is reserved: 0x00 or 0x0B to 0xFF (30_encoding R68). -/
  | reserved (op : Byte)
  /-- A command is 9 bytes long, no more and no fewer (30_encoding R69). -/
  | length (n : Nat)
deriving DecidableEq, Repr

/-! ### Fields (30_encoding R63) -/

/-- `OP` = `CMD[71:64]`. -/
def fieldOp (w : CmdWord) : Byte := w.extractLsb' 64 8
/-- `A` = `CMD[63:48]`. -/
def fieldA (w : CmdWord) : Index := w.extractLsb' 48 16
/-- `B` = `CMD[47:32]`. -/
def fieldB (w : CmdWord) : Index := w.extractLsb' 32 16
/-- `R` = `CMD[31:24]`. -/
def fieldR (w : CmdWord) : Byte := w.extractLsb' 24 8
/-- `G` = `CMD[23:16]`. -/
def fieldG (w : CmdWord) : Byte := w.extractLsb' 16 8
/-- `BL` = `CMD[15:8]`. -/
def fieldBl (w : CmdWord) : Byte := w.extractLsb' 8 8
/-- `AUX` = `CMD[7:0]`. -/
def fieldAux (w : CmdWord) : Byte := w.extractLsb' 0 8

/-! ### Decoding -/

/-- The decoder: `OP` alone selects the command (30_encoding R65, R72); operands are the fields of R64, taken as they are
(R66); fields a command does not use are ignored (R67); every other opcode is reserved (R68). -/
def decode (w : CmdWord) : Except DecodeError Instr :=
  match (fieldOp w).toNat with
  | 0x01 => .ok (.new (fieldA w) (fieldB w) ((fieldAux w).getLsbD 0) ((fieldAux w).getLsbD 1))
  | 0x02 => .ok (.setxy (fieldA w) (fieldB w) (fieldR w) (fieldG w) (fieldBl w))
  | 0x03 => .ok (.setlin (fieldA w) (fieldR w) (fieldG w) (fieldBl w))
  | 0x04 => .ok (.setsxy (fieldA w) (fieldB w) (fieldR w) (fieldG w) (fieldBl w) (fieldAux w))
  | 0x05 => .ok (.setdxy (fieldA w) (fieldB w) (fieldR w) (fieldG w) (fieldBl w) (fieldAux w))
  | 0x06 => .ok (.setd (fieldA w) (fieldR w) (fieldG w) (fieldBl w) (fieldAux w))
  | 0x07 => .ok (.getxy (fieldA w) (fieldB w))
  | 0x08 => .ok (.getlin (fieldA w))
  | 0x09 => .ok .getn
  | 0x0A => .ok .showFrame
  | _    => .error (.reserved (fieldOp w))

/-- The word that nine bytes stand for: "the most significant byte, `OP`, comes first" (30_encoding R63). -/
def wordOfBytes : List Byte → Option CmdWord
  | [op, a1, a0, b1, b0, r, g, bl, aux] => some (op ++ a1 ++ a0 ++ b1 ++ b0 ++ r ++ g ++ bl ++ aux)
  | _ => none

/-- The nine bytes a word is carried as, `OP` first (30_encoding R63). -/
def bytesOfWord (w : CmdWord) : List Byte :=
  [w.extractLsb' 64 8, w.extractLsb' 56 8, w.extractLsb' 48 8, w.extractLsb' 40 8, w.extractLsb' 32 8,
   w.extractLsb' 24 8, w.extractLsb' 16 8, w.extractLsb' 8 8, w.extractLsb' 0 8]

/-- Decoding of any byte string: a command is exactly nine bytes (30_encoding R63, R69). -/
def decodeBytes (bs : List Byte) : Except DecodeError Instr :=
  match wordOfBytes bs with
  | some w => decode w
  | none   => .error (.length bs.length)

/-! ### Encoding -/

/-- A command word from its seven fields (30_encoding R63). -/
def packWord (op : Byte) (a b : Index) (r g bl aux : Byte) : CmdWord := op ++ a ++ b ++ r ++ g ++ bl ++ aux

/-- `AUX` of `NEW` = `{0b000000, alternating, xReversed}` (30_encoding R70). -/
def newFlags (xReversed alternating : Bool) : Byte :=
  0#6 ++ BitVec.ofBool alternating ++ BitVec.ofBool xReversed

/-- The opcode of a command (30_encoding R65). -/
def opcode : Instr → Byte
  | .new ..     => 0x01#8
  | .setxy ..   => 0x02#8
  | .setlin ..  => 0x03#8
  | .setsxy ..  => 0x04#8
  | .setdxy ..  => 0x05#8
  | .setd ..    => 0x06#8
  | .getxy ..   => 0x07#8
  | .getlin ..  => 0x08#8
  | .getn       => 0x09#8
  | .showFrame  => 0x0A#8

/-- The encoder: the word of 30_encoding R70's table, zeros in the unused fields (R67). -/
def encode (i : Instr) : CmdWord :=
  match i with
  | .new n l xr alt        => packWord (opcode i) n l 0#8 0#8 0#8 (newFlags xr alt)
  | .setxy x y r g b       => packWord (opcode i) x y r g b 0#8
  | .setlin k r g b        => packWord (opcode i) k 0#16 r g b 0#8
  | .setsxy x y r g b s    => packWord (opcode i) x y r g b s
  | .setdxy x y r g b br   => packWord (opcode i) x y r g b br
  | .setd k r g b br       => packWord (opcode i) k 0#16 r g b br
  | .getxy x y             => packWord (opcode i) x y 0#8 0#8 0#8 0#8
  | .getlin k              => packWord (opcode i) k 0#16 0#8 0#8 0#8 0#8
  | .getn                  => packWord (opcode i) 0#16 0#16 0#8 0#8 0#8 0#8
  | .showFrame             => packWord (opcode i) 0#16 0#16 0#8 0#8 0#8 0#8

/-- The bits of a command word that its command uses: its opcode and operand fields, the complement of the row's `ignored`
ranges (30_encoding R64, R67, R75). -/
def usedBits : Instr → CmdWord
  | .new ..     => 0xFFFFFFFFFF00000003#72
  | .setxy ..   => 0xFFFFFFFFFFFFFFFF00#72
  | .setlin ..  => 0xFFFFFF0000FFFFFF00#72
  | .setsxy ..  => 0xFFFFFFFFFFFFFFFFFF#72
  | .setdxy ..  => 0xFFFFFFFFFFFFFFFFFF#72
  | .setd ..    => 0xFFFFFF0000FFFFFFFF#72
  | .getxy ..   => 0xFFFFFFFFFF00000000#72
  | .getlin ..  => 0xFFFFFF000000000000#72
  | .getn       => 0xFF0000000000000000#72
  | .showFrame  => 0xFF0000000000000000#72

/-! ### Words as spec/opcode_table.json numbers them -/

/-- The command word whose low `nbits` bits are `w`'s and whose other bits are 0. A command is ONE 72-bit word, so bit 0 of
the table is bit 0 of `CMD` (30_encoding R75). -/
def tableWord (nbits w : Nat) : CmdWord := BitVec.ofNat 72 (w % 2 ^ nbits)

/-- The command the decoder reads from a table word. -/
def decodeTableWord (nbits w : Nat) : Option Instr :=
  match decode (tableWord nbits w) with
  | .ok i    => some i
  | .error _ => none

end Sys2Proof
end

