-- ==== Sys2Proof/Config.lean ====
section
/-! DEFINITION. The parameters the spec leaves OPEN (00_scope R9, 92_eei_decisions, "Open parameters, collected") and the
free values: constants without a body, so that nothing can be proved about them and a claim holds whatever they are. -/

namespace Sys2Proof

/-- The 30 entries of `PWM5` that the spec does not pin (42_pwm_lut R101); read only at levels 1 to 30. Log 7. -/
opaque Config.pwm5Open : Level → Byte

/-- The 13 entries of `PWM4` that the spec does not pin (42_pwm_lut R102); read only at the unpinned indices. Log 7. -/
opaque Config.pwm4Open : BitVec 4 → Byte

/-- FREE VALUE: what the cursor registers hold once a frame has ended ("left with unspecified values", 45_bitstream R146,
93_implementation_defined I7). The argument is the counter `State.draws`. Log 5. -/
opaque Config.freeCursor : Nat → Cursor

/-- FREE VALUE: whether a `CsExit` follows the bytes of a frame that a reset cuts (70_reset_and_hazards R172,
93_implementation_defined I5). The argument is the counter `State.draws`. Log 6. -/
opaque Config.cutEmitsCsExit : Nat → Bool

/-- `BITRATE`, the serial link's bit rate: OPEN, no rule depends on it (00_scope R9). The spec has it as a positive real in
bits per second (92_eei_decisions, "Open parameters, collected"); a natural number of bits per second, 0 not excluded, is
the model's choice (DESIGN CHOICE, log 19). -/
opaque Config.bitRate : Nat

/-- `TRESET`, the LED chain's latch threshold: OPEN, no rule depends on it (00_scope R9). The spec has it as a positive real
in seconds (92_eei_decisions, "Open parameters, collected"); a natural number of nanoseconds, 0 not excluded, is the
model's choice (DESIGN CHOICE, log 19). -/
opaque Config.tReset : Nat

end Sys2Proof
end

