-- ==== Sys2Proof/Machine/Rom.lean ====
section
/-! DEFINITION. The contents of the two lookup ROMs (42_pwm_lut R100 to R102): the pinned points the spec states, and the
open entries of Config everywhere else. -/

namespace Sys2Proof.Machine

/-- `PWM5[v]`: `PWM5[31] = 255` (`P5_TOP`), `PWM5[0] = 0` (`P5_ZERO`, D9; log 8), the other entries open (42_pwm_lut R101). -/
def pwm5Entry (v : Level) : Byte :=
  if v = 31#5 then 255#8
  else if v = 0#5 then 0#8
  else Config.pwm5Open v

/-- `PWM4[k]`: `PWM4[0] = 0`, `PWM4[8] = 95` (log 9), `PWM4[15] = 255`, the other entries open (42_pwm_lut R102). -/
def pwm4Entry (k : BitVec 4) : Byte :=
  if k = 0#4 then 0#8
  else if k = 8#4 then 95#8
  else if k = 15#4 then 255#8
  else Config.pwm4Open k

/-- The 32-entry ROM (42_pwm_lut R100). -/
def pwm5Rom : Vector Byte 32 := Vector.ofFn fun v => pwm5Entry (BitVec.ofFin v)

/-- The 16-entry ROM (42_pwm_lut R100). -/
def pwm4Rom : Vector Byte 16 := Vector.ofFn fun k => pwm4Entry (BitVec.ofFin k)

end Sys2Proof.Machine
end

