-- ==== Sys2Proof/Machine/State.lean ====
section
/-! DEFINITION. The state of the PXE: everything 10_state R21 lists, the command port of R39, and, marked as such, what the
model itself must hold of the block's surroundings (the host's and the link's inputs, the observer's trace). Plain data. -/

namespace Sys2Proof.Machine

/-- The lifecycle phase (10_state R20). -/
inductive Phase where
  | empty
  | ready
deriving DecidableEq, Repr

/-- The configuration registers (10_state R22). -/
structure Geometry where
  numLeds     : Index
  ledsPerRow  : Index
  xReversed   : Bool
  alternating : Bool
deriving DecidableEq, Repr

/-- The pixel memory `PIX` (20_memory R45): the words that are not black, as (physical index, pixel) pairs. An unlisted
index reads as `Pixel.black`, "`(0,0,0)` if none since `NEW`" (20_memory R54). The unit is one whole pixel (R45, R49). Log 1. -/
abbrev PixMem := List (Nat × Pixel)

/-- The canonical form of a pixel memory: indices strictly rising, and no entry equal to what an unlisted index reads as. -/
abbrev Memory.wf (m : PixMem) : Prop :=
  m.Pairwise (fun a b => a.1 < b.1) ∧ ∀ e ∈ m, e.2 ≠ Pixel.black

/-- The serial link as the encoder sees it (60_exceptions R160; the handshake is 10_state R39's `SL_DONE`).
MODEL's own field, log 12. -/
inductive Link where
  /-- Every byte is done within the command that sends it: `SHOW` is the big step of 45_bitstream R131. -/
  | prompt
  /-- Bytes are reported done one by one, and the link can take a byte: `SHOW` is the small-step encoder (R142 to R146). -/
  | ready
  /-- As `ready`, but the byte last sent is not done yet (45_bitstream R148). -/
  | waiting
deriving DecidableEq, Repr

/-- What can reach the block from outside (10_state R39, 60_exceptions R167). MODEL's own type, log 10, 11. -/
inductive Input where
  /-- The host presents a command word (`CMD`, `CMD_VALID`). -/
  | command (w : CmdWord)
  /-- The link reports the last byte done (`SL_DONE`). -/
  | serialDone
  /-- The host asserts `RST` (70_reset_and_hazards R170). -/
  | reset
  /-- The host reads `RD` (60_exceptions R167). -/
  | readRd
  /-- The host reads `RN`. -/
  | readRn
  /-- The host reads `STATUS`. -/
  | readStatus
  /-- The host sets up the serial link, "one-time setup before first use" (60_exceptions R161); the model keeps of it
  whether bytes are reported done one by one. -/
  | linkSetup (stepped : Bool)
deriving DecidableEq, Repr

/-- The machine's state. Fields up to `frameSent` are the spec's; `link` and below are the model's own. -/
structure State where
  /-- `phase`, seen as `STATUS.READY` (10_state R20, R27). -/
  phase : Phase
  /-- `CFG.*` (10_state R22). -/
  cfg : Geometry
  /-- `PIX` (10_state R32, 20_memory R45). -/
  pix : PixMem
  /-- `RD.R`, `RD.G`, `RD.B` (10_state R24, R25). -/
  rd : Rgb
  /-- Whether `RD` holds a value: "After reset `RD` holds no value" (10_state R25). -/
  rdWritten : Bool
  /-- `RN` (10_state R24, R26). -/
  rn : Index
  /-- Whether `RN` holds a value (10_state R26). -/
  rnWritten : Bool
  /-- `STATUS.BUSY` (10_state R27, R28). -/
  busy : Bool
  /-- `STATUS.CFGERR` (10_state R27, R29). -/
  cfgErr : Bool
  /-- `PI`, `CH`, `BI`, `SR` (10_state R31). -/
  cursor : Cursor
  /-- `PWM5[0..31]`, read-only (10_state R33). -/
  pwm5 : Vector Byte 32
  /-- `PWM4[0..15]`, read-only (10_state R33). -/
  pwm4 : Vector Byte 16
  /-- `CMD` while `CMD_VALID` = 1: a presented word that is not yet accepted (10_state R39, 45_bitstream R141). -/
  cmd : Option CmdWord
  /-- Every bit of the frame is sent; the frame ends once the link has completed the last byte (45_bitstream R146). -/
  frameSent : Bool
  /-- The serial link. MODEL's own field, log 12. -/
  link : Link
  /-- What the host and the link do next, in order. MODEL's own field, log 10. -/
  inputs : List Input
  /-- The output trace of the current run (00_scope R7), the observer's record (10_state R35). MODEL's own field, log 13. -/
  trace : List Event
  /-- The traces of the runs that resets have ended, oldest first. MODEL's own field, log 13. -/
  pastRuns : List (List Event)
  /-- How many free values have been drawn. MODEL's own field, log 5. -/
  draws : Nat
deriving DecidableEq, Repr

/-- Why the machine stops. Both are the spec's I4, raised by the host's own reads, never by a command. -/
inductive Fault where
  /-- The host reads `RD` and it holds no value: "a read of an unwritten register (fault or refusal, never a chosen
  number)" (10_state R25; 93 I4: `fault`; 60_exceptions R154). Raised by `hostReadRd`. Safe. -/
  | rdUnwritten
  /-- The host reads `RN` and it holds no value (10_state R26; 93 I4: `fault`; 60_exceptions R154). Raised by `hostReadRn`.
  Safe. -/
  | rnUnwritten
deriving DecidableEq, Repr

/-- Why a step has no meaning: the spec's `refuse` (00_scope R13), which a model must not continue past. -/
inductive Refusal where
  /-- An arm of `exec` that has no meaning yet. Raised by no arm now. Safe. -/
  | notModelled (mnemonic : String)
  /-- A reserved opcode (30_encoding R68, I1). Raised by `acceptWord`. Safe. -/
  | reservedOpcode (op : Byte)
  /-- A command other than `NEW` in phase `EMPTY` (30_encoding R73, I2). Raised by `whenReady`. Safe. -/
  | noBuffer
  /-- `NEW` in phase `READY` (30_encoding R73, I3). Raised by `execNew`. Safe. -/
  | alreadyConstructed
  /-- The host breaks a duty of 60_exceptions R167 (a second command while one waits on the port, or link set-up inside
  a frame), where "the PXE's behaviour is specified only if it holds". Raised by `frameWait`. Safe. Log 15. -/
  | hostDuty
deriving DecidableEq, Repr

/-- The machine right after reset, at power-on (10_state R36): phase `EMPTY`, `STATUS` = `0b000`, no `PIX`, `RD` and `RN`
without value, an empty trace. The values of `cfg`, `rd`, `rn`, `cursor`, `link`, `draws` are the model's choice
(log 2, 3, 4, 12, 5). -/
def State.reset : State where
  phase := .empty
  cfg := ⟨0#16, 0#16, false, false⟩
  pix := []
  rd := ⟨0#8, 0#8, 0#8⟩
  rdWritten := false
  rn := 0#16
  rnWritten := false
  busy := false
  cfgErr := false
  cursor := ⟨0#16, .green, 0#3, 0#8⟩
  pwm5 := pwm5Rom
  pwm4 := pwm4Rom
  cmd := none
  frameSent := false
  link := .prompt
  inputs := []
  trace := []
  pastRuns := []
  draws := 0

end Sys2Proof.Machine
end

