-- ==== Sys2Proof/Machine/Flags.lean ====
section
/-! DEFINITION. The status outputs (10_state R27, R39). The block has no other flag: no arithmetic operation sets one. -/

namespace Sys2Proof.Machine

/-- `STATUS[2:0]` as the host reads it: `READY` is bit 0, `BUSY` bit 1, `CFGERR` bit 2 (10_state R27). -/
def statusWord (s : State) : BitVec 3 :=
  BitVec.ofBool s.cfgErr ++ BitVec.ofBool s.busy ++ BitVec.ofBool (s.phase == .ready)

/-- `CMD_READY`: 0 while a command executes, in particular while `BUSY` = 1 (10_state R39, 45_bitstream R141). -/
def cmdReady (s : State) : Bool := !s.busy

/-- A `NEW` was rejected: `STATUS.CFGERR` becomes 1 (10_state R27). -/
def setCfgErr (s : State) : State := { s with cfgErr := true }

/-- A `NEW` succeeded: `STATUS.CFGERR` becomes 0 and `STATUS.READY` 1 (40_construct R80). -/
def setReady (s : State) : State := { s with cfgErr := false, phase := .ready }

/-- A frame starts: `STATUS.BUSY` becomes 1 (45_bitstream R131, R142). -/
def setBusy (s : State) : State := { s with busy := true }

/-- A frame ends: `STATUS.BUSY` becomes 0 (45_bitstream R131, R146). -/
def clearBusy (s : State) : State := { s with busy := false }

end Sys2Proof.Machine
end

