-- ==== Sys2Proof/Machine/Operands.lean ====
section
/-! DEFINITION. How a command's operands are used: the addressing transform (41_addressing R90 to R94) and the channel
datapath (42_pwm_lut R103 to R107). All values are unsigned (00_scope R11); the transform's arithmetic is exact, over `Nat`
(41_addressing R91). -/

namespace Sys2Proof.Machine

/-! ### Addressing -/

/-- `rowReversed = xReversed XOR (alternating AND (y is odd))`, `y is odd` being `y[0] = 1` (41_addressing R90). -/
def rowReversed (cfg : Geometry) (y : Index) : Bool := Bool.xor cfg.xReversed (cfg.alternating && y.getLsbD 0)

/-- `ledIndexFromXY(x, y)`, exact (41_addressing R90, R91). Defined by the spec for `x < ledsPerRow` only, and used for such
`x` only: `pixAddr` checks the column first. -/
def ledIndexFromXY (cfg : Geometry) (x y : Index) : Nat :=
  if rowReversed cfg y then y.toNat * cfg.ledsPerRow.toNat + (cfg.ledsPerRow.toNat - 1 - x.toNat)
  else y.toNat * cfg.ledsPerRow.toNat + x.toNat

/-- `XYfromLinear(i)` = `(i % ledsPerRow, i / ledsPerRow)` (41_addressing R93). -/
def xyFromLinear (cfg : Geometry) (i : Index) : Index × Index := (i % cfg.ledsPerRow, i / cfg.ledsPerRow)

/-- `PixAddr(x, y)`: the column check, then the index check on the exact index; `none` is `invalid` (41_addressing R94). -/
def pixAddr (cfg : Geometry) (x y : Index) : Option Nat :=
  if cfg.ledsPerRow ≤ x then none
  else if cfg.numLeds.toNat ≤ ledIndexFromXY cfg x y then none
  else some (ledIndexFromXY cfg x y)

/-! ### Channel datapath -/

/-- `Trunc5(c)` = `c[7:3]` (42_pwm_lut R104). -/
def trunc5 (c : Byte) : Level := c.extractLsb' 3 5

/-- `Expand8(v)` = `{v[4:0], 0b000}` (42_pwm_lut R105). -/
def expand8 (v : Level) : Byte := v ++ 0#3

/-- `Scale8(c, s)` = `(c * s) >> 8`, the product exact (42_pwm_lut R107). -/
def scale8 (c s : Byte) : Byte := BitVec.ofNat 8 (c.toNat * s.toNat / 256)

/-- `brightnessToPWM(brightness)` = `PWM4[brightness >> 4]` (42_pwm_lut R103). -/
def brightnessToPwm (rom : Vector Byte 16) (br : Byte) : Byte := rom.get (br.extractLsb' 4 4).toFin

/-- The three channels truncated for storing, each into its own field (43_pixel_write R113). -/
def truncPixel (c : Rgb) : Pixel := ⟨trunc5 c.r, trunc5 c.g, trunc5 c.b⟩

/-- The three channels scaled by the same factor (43_pixel_write R115). -/
def scaleRgb (c : Rgb) (s : Byte) : Rgb := ⟨scale8 c.r s, scale8 c.g s, scale8 c.b s⟩

/-- A stored pixel expanded for the host, each channel from its own field (44_pixel_read R125, conflict C5). -/
def expandPixel (p : Pixel) : Rgb := ⟨expand8 p.red, expand8 p.green, expand8 p.blue⟩

/-! ### The packed pixel word -/

/-- The 15-bit pixel word `{blue, green, red}` (20_memory R46). No command sees it. -/
def pixelWord (p : Pixel) : BitVec 15 := p.blue ++ p.green ++ p.red

/-- The pixel a 15-bit word holds: red in bits [4:0], green in [9:5], blue in [14:10] (20_memory R46). -/
def pixelOfWord (w : BitVec 15) : Pixel := ⟨w.extractLsb' 0 5, w.extractLsb' 5 5, w.extractLsb' 10 5⟩

end Sys2Proof.Machine
end

