-- ==== Sys2Proof/Machine/Ops.lean ====
section
/-! DEFINITION. The named operations over memory and registers that the meanings share: reading and writing a pixel word,
phase admission, the one reported error, delivering a result, emitting events, and reset. -/

namespace Sys2Proof.Machine

/-! ### Pixel memory -/

/-- `MemRead(i, 1)` (20_memory R47): the pixel word at a physical index; black where nothing has been written since `NEW`
(R54). -/
def memRead : PixMem → Nat → Pixel
  | [], _ => Pixel.black
  | (a, p) :: m, i => if i = a then p else memRead m i

/-- `p` put in front of a memory at index `i`, unless it is what an unlisted index reads as: the canonical form. -/
def memCons (i : Nat) (p : Pixel) (m : PixMem) : PixMem := if p = Pixel.black then m else (i, p) :: m

/-- `MemWrite(i, 1, p)` (20_memory R47): replaces all three fields of the word at `i` and no other word, and keeps the
memory canonical. -/
def memWrite : PixMem → Nat → Pixel → PixMem
  | [], i, p => memCons i p []
  | (a, q) :: m, i, p =>
    if i < a then memCons i p ((a, q) :: m)
    else if i = a then memCons i p m
    else (a, q) :: memWrite m i p

/-- Every word black: the memory `NEW` creates (40_construct R80). -/
def memClear : PixMem := []

/-! ### Admission by phase and the configuration error -/

/-- Every command but `NEW` is admitted in phase `READY` only; in `EMPTY` it is refused (30_encoding R73). -/
def whenReady (s : State) (t : State) : Host.Outcome State Fault Refusal :=
  match s.phase with
  | .empty => .refused .noBuffer
  | .ready => .next t

/-- The geometry `NEW` rejects (40_construct R81). -/
def degenerate (numLeds ledsPerRow : Index) : Bool :=
  numLeds == 0#16 || ledsPerRow == 0#16 || numLeds < ledsPerRow

/-- RAISING `ConfigError`, the block's one exception (60_exceptions R151): the bit `STATUS.CFGERR` is recorded and nothing
else changes; no state is saved, no mode changes, no control is transferred (R157), and the command completes. There is no
return from it (R158): the bit is cleared by the next successful `NEW` (`construct`) or by reset. -/
def raiseConfigError (s : State) : State := setCfgErr s

/-- Constructing the buffer: the geometry is written, every pixel cleared, `CFGERR` cleared and the phase `READY`
(40_construct R80). -/
def construct (g : Geometry) (s : State) : State := setReady { s with cfg := g, pix := memClear }

/-! ### Pixel access by logical coordinates -/

/-- Storing a colour at `(x, y)`: a `nop` where the address is invalid (60_exceptions R152), else one `MemWrite` of the
truncated channels (43_pixel_write R113). -/
def storeColour (x y : Index) (c : Rgb) (s : State) : State :=
  match pixAddr s.cfg x y with
  | none   => s
  | some i => { s with pix := memWrite s.pix i (truncPixel c) }

/-- Storing a colour scaled by `factor` (43_pixel_write R115). -/
def storeScaled (x y : Index) (c : Rgb) (factor : Byte) (s : State) : State := storeColour x y (scaleRgb c factor) s

/-- Storing a colour dimmed by a perceptual brightness (43_pixel_write R116). -/
def storeDimmed (x y : Index) (c : Rgb) (br : Byte) (s : State) : State :=
  storeScaled x y c (brightnessToPwm s.pwm4 br) s

/-- Loading `RD` with the colour at `(x, y)`: a `nop` where the address is invalid, so that `RD` keeps what it held, else
one `MemRead` expanded (44_pixel_read R125). -/
def loadColour (x y : Index) (s : State) : State :=
  match pixAddr s.cfg x y with
  | none   => s
  | some i => { s with rd := expandPixel (memRead s.pix i), rdWritten := true }

/-- `RN <- CFG.numLeds` (40_construct R84). -/
def loadCount (s : State) : State := { s with rn := s.cfg.numLeds, rnWritten := true }

/-! ### The output trace -/

/-- `emit E` for a sequence of events (00_scope R13). -/
def emit (es : List Event) (s : State) : State := { s with trace := s.trace ++ es }

/-! ### Reset -/

/-- What may follow the events of a run that a reset ends: inside a frame, nothing or `CsExit`, unspecified
(70_reset_and_hazards R172, I5; free value, log 6); outside a frame, nothing. -/
def cutTail (s : State) : List Event :=
  if s.busy && Config.cutEmitsCsExit s.draws then [.csExit] else []

/-- Asserting `RST` (70_reset_and_hazards R170, R172; 10_state R36): the state of `State.reset`, except that the ROMs are
unaffected (10_state R33), the surroundings (link, inputs) go on, and the ended run's trace is kept as it was cut. A word
that waits on the port belongs to the ended run and is dropped (log 14). -/
def resetBlock (s : State) : State :=
  { State.reset with
    pwm5 := s.pwm5
    pwm4 := s.pwm4
    link := s.link
    inputs := s.inputs
    pastRuns := s.pastRuns ++ [s.trace ++ cutTail s]
    draws := s.draws + 1 }

/-! ### The host's reads -/

/-- The host reads `RD`; a read changes nothing. Where `RD` holds no value the spec orders a stop: "a model must treat a read
of `RD` by the host before the first in-range `GETXY`/`GET` since reset as a read of an unwritten register (fault or
refusal, never a chosen number)" (10_state R25; 93 I4 has it as `fault`; 92 D8; 60_exceptions R154). -/
def hostReadRd (s : State) : Host.Outcome State Fault Refusal :=
  if s.rdWritten then .next s else .fault .rdUnwritten

/-- The host reads `RN`: as `RD`, before the first `GETN` since reset (10_state R26; 93 I4, `fault`; 92 D8; 60_exceptions
R154). -/
def hostReadRn (s : State) : Host.Outcome State Fault Refusal :=
  if s.rnWritten then .next s else .fault .rnUnwritten

/-- The host reads `STATUS` (`statusWord`), which always holds a value (60_exceptions R167). -/
def hostReadStatus (s : State) : Host.Outcome State Fault Refusal := .next s

end Sys2Proof.Machine
end

