-- ==== Sys2Proof/Machine/Construct.lean ====
section
/-! DEFINITION. The meanings of `NEW` and `GETN` (40_construct R80 to R84). -/

namespace Sys2Proof.Machine

/-- `NEW` (40_construct R80): refused in `READY` (30_encoding R73); a degenerate geometry raises `ConfigError` (R81); else the
buffer is constructed. The order of the checks is 60_exceptions R156's. -/
def execNew (numLeds ledsPerRow : Index) (xReversed alternating : Bool) (s : State) : Host.Outcome State Fault Refusal :=
  match s.phase with
  | .ready => .refused .alreadyConstructed
  | .empty =>
    if degenerate numLeds ledsPerRow then .next (raiseConfigError s)
    else .next (construct ⟨numLeds, ledsPerRow, xReversed, alternating⟩ s)

/-- `GETN` (40_construct R84). -/
def execGetn (s : State) : Host.Outcome State Fault Refusal := whenReady s (loadCount s)

end Sys2Proof.Machine
end

