-- ==== Sys2Proof/Machine/Encoder.lean ====
section
/-! DEFINITION. The bitstream encoder: the wire format (45_bitstream R132 to R136), the frame as one big step (R131) and the
small-step machine that sends one byte per step (R142 to R146). -/

namespace Sys2Proof.Machine

/-! ### The wire format -/

/-- `Sym`: the serial byte of one logical bit (45_bitstream R132). -/
def sym (bit : Bool) : Byte := if bit then 0x7E#8 else 0x70#8

/-- `Sym8(d)`: the eight symbols of a duty-cycle byte, most significant bit first (45_bitstream R133). -/
def sym8 (d : Byte) : List Byte :=
  [sym (d.getLsbD 7), sym (d.getLsbD 6), sym (d.getLsbD 5), sym (d.getLsbD 4),
   sym (d.getLsbD 3), sym (d.getLsbD 2), sym (d.getLsbD 1), sym (d.getLsbD 0)]

/-- The duty cycle of a stored level: `PWM5[v]` (45_bitstream R134). -/
def duty (rom : Vector Byte 32) (v : Level) : Byte := rom.get v.toFin

/-- A pixel's field that a channel sends (45_bitstream R143). -/
def channelLevel (p : Pixel) : Channel → Level
  | .green => p.green
  | .red   => p.red
  | .blue  => p.blue

/-- The order of the channels on the wire: Green, Red, Blue (45_bitstream R135). -/
def channelOrder : List Channel := [.green, .red, .blue]

/-- `PixelBytes(p)` (45_bitstream R135). -/
def pixelBytes (rom : Vector Byte 32) (p : Pixel) : List Byte :=
  channelOrder.flatMap fun ch => sym8 (duty rom (channelLevel p ch))

/-- `Frame(PIX)`: the pixels in physical order (45_bitstream R136). -/
def frameBytes (rom : Vector Byte 32) (m : PixMem) (numLeds : Nat) : List Byte :=
  (List.range numLeds).flatMap fun i => pixelBytes rom (memRead m i)

/-- A serial byte as the levels of the line, most significant bit first, true = high (45_bitstream R140, 20_memory R50). -/
def lineLevels (b : Byte) : List Bool :=
  [b.getLsbD 7, b.getLsbD 6, b.getLsbD 5, b.getLsbD 4, b.getLsbD 3, b.getLsbD 2, b.getLsbD 1, b.getLsbD 0]

/-! ### Start and end of a frame, common to both readings -/

/-- `STATUS.BUSY <- 1`, `emit CsEnter` (45_bitstream R131, R142). -/
def openFrame (s : State) : State := emit [.csEnter] (setBusy s)

/-- `emit CsExit`, `STATUS.BUSY <- 0`; the cursor is "left with unspecified values", a free value (45_bitstream R131, R146;
log 5). -/
def closeFrame (s : State) : State :=
  { clearBusy (emit [.csExit] s) with
    frameSent := false, cursor := Config.freeCursor s.draws, draws := s.draws + 1 }

/-! ### The big step -/

/-- `SHOW` as one step: the whole frame inside one `CsEnter` / `CsExit` pair (45_bitstream R131). -/
def sendFrame (s : State) : State :=
  closeFrame (emit ((frameBytes s.pwm5 s.pix s.cfg.numLeds.toNat).map .byte) (openFrame s))

/-! ### The small steps -/

/-- `Load(PI, CH)` (45_bitstream R143). -/
def channelLoad (s : State) (pi : Index) (ch : Channel) : Byte :=
  duty s.pwm5 (channelLevel (memRead s.pix pi.toNat) ch)

/-- Start of a frame (45_bitstream R142). -/
def startFrame (s : State) : State :=
  { openFrame s with cursor := ⟨0#16, .green, 0#3, channelLoad s 0#16 .green⟩, frameSent := false }

/-- The link has taken a byte: it is done at once, or is waited for (45_bitstream R148). -/
def linkTake : Link → Link
  | .prompt => .prompt
  | _       => .waiting

/-- The link reports its byte done (`SL_DONE`, 10_state R39); with no byte outstanding the report changes nothing. -/
def linkDone : Link → Link
  | .prompt => .prompt
  | _       => .ready

/-- Bit step: the symbol of `SR[7]` is sent and `SR` shifts left by one (45_bitstream R144). -/
def bitStep (s : State) : State :=
  { emit [.byte (sym (s.cursor.sr.getLsbD 7))] s with
    cursor := { s.cursor with sr := s.cursor.sr <<< 1 }, link := linkTake s.link }

/-- The channel sent after this one; `none` after blue (45_bitstream R145). -/
def nextChannel : Channel → Option Channel
  | .green => some .red
  | .red   => some .blue
  | .blue  => none

/-- Advance of the cursor after a bit step (45_bitstream R145): the next bit, else the next channel, else the next pixel,
else the frame is complete. -/
def advance (s : State) : State :=
  if s.cursor.bi.toNat < 7 then { s with cursor := { s.cursor with bi := s.cursor.bi + 1#3 } }
  else
    match nextChannel s.cursor.ch with
    | some ch => { s with cursor := ⟨s.cursor.pi, ch, 0#3, channelLoad s s.cursor.pi ch⟩ }
    | none =>
      if s.cursor.pi.toNat < s.cfg.numLeds.toNat - 1 then
        { s with cursor := ⟨s.cursor.pi + 1#16, .green, 0#3, channelLoad s (s.cursor.pi + 1#16) .green⟩ }
      else { s with cursor := { s.cursor with ch := .green, bi := 0#3 }, frameSent := true }

/-- One step of the encoder while the link can take a byte: a bit step and its advance, or, once every bit is sent and the
link has completed the last, the end of the frame (45_bitstream R144 to R146). -/
def encoderStep (s : State) : State := if s.frameSent then closeFrame s else advance (bitStep s)

end Sys2Proof.Machine
end

