-- ==== Sys2Proof/Machine/Frame.lean ====
section
/-! DEFINITION. The meaning of `SHOW` (45_bitstream R131, R142). -/

namespace Sys2Proof.Machine

/-- `SHOW`: with a link that completes every byte at once, the whole frame (the big step, 45_bitstream R131); with a link
that reports its bytes one by one, the start of the frame (R142), which the steps that follow send (R144 to R146). The two
agree (R147). -/
def execShow (s : State) : Host.Outcome State Fault Refusal :=
  whenReady s (match s.link with
    | .prompt => sendFrame s
    | _       => startFrame s)

end Sys2Proof.Machine
end

