-- ==== Sys2Proof/Machine/PixelRead.lean ====
section
/-! DEFINITION. The meanings of the two pixel read commands (44_pixel_read R125, R126). -/

namespace Sys2Proof.Machine

/-- `GETXY` (44_pixel_read R125). -/
def execGetxy (x y : Index) (s : State) : Host.Outcome State Fault Refusal := whenReady s (loadColour x y s)

/-- `GET`: the index is row-major logical and goes through `XYfromLinear` (44_pixel_read R126, D13). -/
def execGetlin (i : Index) (s : State) : Host.Outcome State Fault Refusal :=
  whenReady s (loadColour (xyFromLinear s.cfg i).1 (xyFromLinear s.cfg i).2 s)

end Sys2Proof.Machine
end

