-- ==== Sys2Proof/Machine/PixelWrite.lean ====
section
/-! DEFINITION. The meanings of the five pixel write commands (43_pixel_write R113 to R117). -/

namespace Sys2Proof.Machine

/-- `SETXY` (43_pixel_write R113). -/
def execSetxy (x y : Index) (r g b : Byte) (s : State) : Host.Outcome State Fault Refusal :=
  whenReady s (storeColour x y ⟨r, g, b⟩ s)

/-- `SET`: the index is row-major logical and goes through `XYfromLinear` (43_pixel_write R114). -/
def execSetlin (i : Index) (r g b : Byte) (s : State) : Host.Outcome State Fault Refusal :=
  whenReady s (storeColour (xyFromLinear s.cfg i).1 (xyFromLinear s.cfg i).2 ⟨r, g, b⟩ s)

/-- `SETSXY` (43_pixel_write R115). -/
def execSetsxy (x y : Index) (r g b scaling : Byte) (s : State) : Host.Outcome State Fault Refusal :=
  whenReady s (storeScaled x y ⟨r, g, b⟩ scaling s)

/-- `SETDXY` (43_pixel_write R116). -/
def execSetdxy (x y : Index) (r g b brightness : Byte) (s : State) : Host.Outcome State Fault Refusal :=
  whenReady s (storeDimmed x y ⟨r, g, b⟩ brightness s)

/-- `SETD`: the linear form of `SETDXY`, its index converted as `SET`'s (43_pixel_write R117, D13). -/
def execSetd (i : Index) (r g b brightness : Byte) (s : State) : Host.Outcome State Fault Refusal :=
  whenReady s (storeDimmed (xyFromLinear s.cfg i).1 (xyFromLinear s.cfg i).2 ⟨r, g, b⟩ brightness s)

end Sys2Proof.Machine
end

