-- ==== Sys2Proof/Machine/Dispatch.lean ====
section
/-! DEFINITION. One arm per command, one direct call of its meaning per arm. -/

namespace Sys2Proof.Machine

def exec (i : Instr) (s : State) : Host.Outcome State Fault Refusal :=
  match i with
  | .new numLeds ledsPerRow xReversed alternating => Sys2Proof.Machine.execNew numLeds ledsPerRow xReversed alternating s
  | .setxy x y r g b => Sys2Proof.Machine.execSetxy x y r g b s
  | .setlin k r g b => Sys2Proof.Machine.execSetlin k r g b s
  | .setsxy x y r g b scaling => Sys2Proof.Machine.execSetsxy x y r g b scaling s
  | .setdxy x y r g b brightness => Sys2Proof.Machine.execSetdxy x y r g b brightness s
  | .setd k r g b brightness => Sys2Proof.Machine.execSetd k r g b brightness s
  | .getxy x y => Sys2Proof.Machine.execGetxy x y s
  | .getlin k => Sys2Proof.Machine.execGetlin k s
  | .getn => Sys2Proof.Machine.execGetn s
  | .showFrame => Sys2Proof.Machine.execShow s

end Sys2Proof.Machine
end

