-- ==== Sys2Proof/Machine/Port.lean ====
section
/-! DEFINITION. The block's inputs: accepting a command word, and what a step does with the next input, outside a frame and
inside one (10_state R39, 45_bitstream R141, 70_reset_and_hazards R172, 60_exceptions R167). -/

namespace Sys2Proof.Machine

/-- Accepting a command word: a reserved opcode is refused, a command is executed (30_encoding R68, R72; 60_exceptions R156). -/
def acceptWord (w : CmdWord) (s : State) : Host.Outcome State Fault Refusal :=
  match decode w with
  | .ok i    => exec i s
  | .error _ => .refused (.reservedOpcode (fieldOp w))

/-- The next input is a reset. -/
def resetDue (s : State) : Bool := s.inputs.head? == some .reset

/-- A reset that is due is taken, whatever the state: "Asserting `RST` puts the PXE in phase `EMPTY` from any state"
(70_reset_and_hazards R170). -/
def takeReset (s : State) : Host.Outcome State Fault Refusal := .next (resetBlock { s with inputs := s.inputs.tail })

/-- No frame is in progress and no word waits on the port: the next input is taken; with none, the block "is idle and
holds its state" (60_exceptions R165). The spec has link set-up as "one-time setup before first use" (R161) and says
nothing of a repeated or later one: that it is taken at any time outside a frame, and that a byte still outstanding after a
cut frame is then forgotten, is the model's choice (DESIGN CHOICE, log 29). -/
def idleStep (s : State) : Host.Outcome State Fault Refusal :=
  match s.inputs with
  | []                         => .next s
  | .command w :: rest         => acceptWord w { s with inputs := rest }
  | .serialDone :: rest        => .next { s with inputs := rest, link := linkDone s.link }
  | .reset :: _                => takeReset s
  | .readRd :: rest            => hostReadRd { s with inputs := rest }
  | .readRn :: rest            => hostReadRn { s with inputs := rest }
  | .readStatus :: rest        => hostReadStatus { s with inputs := rest }
  | .linkSetup stepped :: rest => .next { s with inputs := rest, link := if stepped then .ready else .prompt }

/-- A frame is in progress and the encoder waits for the link: the next input is taken. A command waits on the port
(45_bitstream R141); a reset cuts the frame (70_reset_and_hazards R172); with no input left the frame does not go on (93 I9).
That the host may read `RD` and `RN` inside a frame is the model's choice (DESIGN CHOICE, log 30). -/
def frameWait (s : State) : Host.Outcome State Fault Refusal :=
  match s.inputs with
  | []                  => .next s
  | .command w :: rest  =>
    match s.cmd with
    | none   => .next { s with inputs := rest, cmd := some w }
    | some _ => .refused .hostDuty
  | .serialDone :: rest => .next { s with inputs := rest, link := linkDone s.link }
  | .reset :: _         => takeReset s
  | .readRd :: rest     => hostReadRd { s with inputs := rest }
  | .readRn :: rest     => hostReadRn { s with inputs := rest }
  | .readStatus :: rest => hostReadStatus { s with inputs := rest }
  | .linkSetup _ :: _   => .refused .hostDuty

/-- A frame is in progress and no reset is due: while the link is busy with a byte, the next input is taken; else the
encoder makes a step. -/
def frameStep (s : State) : Host.Outcome State Fault Refusal :=
  if s.link == .waiting then frameWait s else .next (encoderStep s)

/-- No frame is in progress and no reset is due: a word that waits on the port is accepted; with none the next input is
taken (DESIGN CHOICE, log 11). -/
def commandStep (s : State) : Host.Outcome State Fault Refusal :=
  match s.cmd with
  | some w => acceptWord w { s with cmd := none }
  | none   => idleStep s

end Sys2Proof.Machine
end

