-- ==== Sys2Proof/Machine/Step.lean ====
section
/-! DEFINITION. One step of the machine, and how a command word is put where the next step takes it. -/

namespace Sys2Proof.Machine

/-- One step. A reset that is due comes first, from any state (70_reset_and_hazards R170); while `BUSY` = 1 the command port
accepts nothing (45_bitstream R141); otherwise a command or the next input is taken. -/
def step (s : State) : Host.Outcome State Fault Refusal :=
  if resetDue s then takeReset s
  else if s.busy then frameStep s
  else commandStep s

/-- `s` with a command word presented next and the port free and ready, so that the next step accepts exactly this word. The
block fetches no instructions: the host presents each (10_state R30). What the host does after it is what it did next in
`s`. DESIGN CHOICE, log 10. -/
def State.withFetchWord (s : State) (nbits w : Nat) : State :=
  { s with cmd := none, busy := false, inputs := .command (tableWord nbits w) :: s.inputs }

end Sys2Proof.Machine
end

