-- ==== Sys2Proof/Machine/Assembler.lean ====
section
/-! DEFINITION. The command script of 30_encoding R70 and its pseudo-instructions (R71): from a line's text to the line, and
from a line to the one command it stands for. -/

namespace Sys2Proof.Machine

/-! ### From a line to its command -/

/-- A number as a 16-bit field. -/
def asmWord (n : Nat) : Index := BitVec.ofNat 16 n
/-- A number as an 8-bit field. -/
def asmByte (n : Nat) : Byte := BitVec.ofNat 8 n
/-- A flag of `NEW`, "written `0` or `1`" (30_encoding R70). -/
def asmFlag (n : Nat) : Bool := n == 1

/-- The command of a line whose operands fit: the core forms (30_encoding R70) and the pseudo-instructions' expansions (R71). -/
def expandLine : AsmName → List Nat → Option Instr
  | .new, [n]                    => some (.new (asmWord n) (asmWord n) false false)
  | .new, [n, l]                 => some (.new (asmWord n) (asmWord l) false false)
  | .new, [n, l, xr]             => some (.new (asmWord n) (asmWord l) (asmFlag xr) false)
  | .new, [n, l, xr, alt]        => some (.new (asmWord n) (asmWord l) (asmFlag xr) (asmFlag alt))
  | .setxy, [x, y, r, g, b]      => some (.setxy (asmWord x) (asmWord y) (asmByte r) (asmByte g) (asmByte b))
  | .set, [i, r, g, b]           => some (.setlin (asmWord i) (asmByte r) (asmByte g) (asmByte b))
  | .setsxy, [x, y, r, g, b, s]  => some (.setsxy (asmWord x) (asmWord y) (asmByte r) (asmByte g) (asmByte b) (asmByte s))
  | .setdxy, [x, y, r, g, b, br] => some (.setdxy (asmWord x) (asmWord y) (asmByte r) (asmByte g) (asmByte b) (asmByte br))
  | .setd, [i, r, g, b, br]      => some (.setd (asmWord i) (asmByte r) (asmByte g) (asmByte b) (asmByte br))
  | .getxy, [x, y]               => some (.getxy (asmWord x) (asmWord y))
  | .get, [i]                    => some (.getlin (asmWord i))
  | .getn, []                    => some .getn
  | .showFrame, []               => some .showFrame
  | .flush, []                   => some .showFrame
  | .write, [x, y, r, g, b]      => some (.setxy (asmWord x) (asmWord y) (asmByte r) (asmByte g) (asmByte b))
  | .write, [x, y, r, g, b, br]  => some (.setdxy (asmWord x) (asmWord y) (asmByte r) (asmByte g) (asmByte b) (asmByte br))
  | .read, [x, y]                => some (.getxy (asmWord x) (asmWord y))
  | _, _                         => none

/-- Assembling a line; `none` is the assembly error (30_encoding R70): nothing is truncated, no word is produced (I11). -/
def assemble (l : AsmLine) : Option Instr := if l.wf then expandLine l.name l.operands else none

/-! ### From text to a line (log 21) -/

/-- "a comment from `;` to the end of the line" (30_encoding R70), and blanks, which separate nothing. -/
def stripLine (cs : List Char) : List Char := cs.takeWhile (· != ';')

/-- The text without its leading and trailing blanks. -/
def trimBlanks (cs : List Char) : List Char :=
  ((cs.dropWhile (· == ' ')).reverse.dropWhile (· == ' ')).reverse

/-- The text between commas. -/
def splitCommas : List Char → List (List Char)
  | []      => [[]]
  | c :: cs =>
    match splitCommas cs with
    | []      => [[c]]
    | p :: ps => if c = ',' then [] :: p :: ps else (c :: p) :: ps

/-- A decimal digit's value. -/
def decDigit (c : Char) : Option Nat :=
  if '0'.toNat ≤ c.toNat ∧ c.toNat ≤ '9'.toNat then some (c.toNat - '0'.toNat) else none

/-- A hexadecimal digit's value. -/
def hexDigit (c : Char) : Option Nat :=
  if 'a'.toNat ≤ c.toNat ∧ c.toNat ≤ 'f'.toNat then some (c.toNat - 'a'.toNat + 10)
  else if 'A'.toNat ≤ c.toNat ∧ c.toNat ≤ 'F'.toNat then some (c.toNat - 'A'.toNat + 10)
  else decDigit c

/-- Digits to a number in the given base, most significant first. -/
def readDigits (base : Nat) (digit : Char → Option Nat) : Nat → List Char → Option Nat
  | acc, []      => some acc
  | acc, c :: cs =>
    match digit c with
    | some d => readDigits base digit (acc * base + d) cs
    | none   => none

/-- "numbers decimal or `0x` hexadecimal" (30_encoding R70). -/
def readNumber : List Char → Option Nat
  | '0' :: 'x' :: c :: cs => readDigits 16 hexDigit 0 (c :: cs)
  | c :: cs               => readDigits 10 decDigit 0 (c :: cs)
  | []                    => none

/-- The operands of a line: none at all, or numbers between commas. A flag of `NEW` is "written `0` or `1`" (30_encoding R70);
that every numeral of the value 0 or 1 (`01`, `0x1`) is taken for it, and where blanks may stand (before and after a numeral,
any number of them, or none after a comma), is the model's choice (DESIGN CHOICE, log 21). -/
def readOperands (cs : List Char) : Option (List Nat) :=
  match trimBlanks cs with
  | [] => some []
  | ts => (splitCommas ts).mapM fun t => readNumber (trimBlanks t)

/-- The name a line begins with (30_encoding R70, R71). -/
def readName : List Char → Option AsmName
  | ['N', 'E', 'W']                => some .new
  | ['S', 'E', 'T', 'X', 'Y']      => some .setxy
  | ['S', 'E', 'T']                => some .set
  | ['S', 'E', 'T', 'S', 'X', 'Y'] => some .setsxy
  | ['S', 'E', 'T', 'D', 'X', 'Y'] => some .setdxy
  | ['S', 'E', 'T', 'D']           => some .setd
  | ['G', 'E', 'T', 'X', 'Y']      => some .getxy
  | ['G', 'E', 'T']                => some .get
  | ['G', 'E', 'T', 'N']           => some .getn
  | ['S', 'H', 'O', 'W']           => some .showFrame
  | ['F', 'L', 'U', 'S', 'H']      => some .flush
  | ['W', 'R', 'I', 'T', 'E']      => some .write
  | ['R', 'E', 'A', 'D']           => some .read
  | _                              => none

/-- One line of text, `MNEMONIC operand, operand, ...` (30_encoding R70), as a line; `none` where it is not of that form. -/
def readLine (cs : List Char) : Option AsmLine :=
  let body := trimBlanks (stripLine cs)
  match readName (body.takeWhile (· != ' ')), readOperands (body.dropWhile (· != ' ')) with
  | some name, some ns => some ⟨name, ns⟩
  | _, _               => none

/-- A line of text to its command word (30_encoding R70). -/
def assembleText (cs : List Char) : Option CmdWord :=
  match readLine cs with
  | some l => (assemble l).map encode
  | none   => none

end Sys2Proof.Machine
end

