-- ==== Sys2Proof/Safety.lean ====
section
/-! DEFINITION. What counts as a safe state and a safe run, in the terms the claims use: the invariant that every step keeps,
the shape of the output trace, and the duties of the host under which no step stops. -/

namespace Sys2Proof.Machine

/-! ### The output trace -/

/-- A trace of whole frames only: `CsEnter`, `len` symbols, `CsExit`, again and again; never nested, and no byte outside a
pair (45_bitstream R138). The first argument after `len` is the number of bytes since the open `CsEnter`, `none` outside
a pair. -/
def wholeFrames (len : Nat) : Option Nat → List Event → Bool
  | none,   []             => true
  | some _, []             => false
  | none,   .csEnter :: es => wholeFrames len (some 0) es
  | some k, .byte b :: es  => (b == sym true || b == sym false) && wholeFrames len (some (k + 1)) es
  | some k, .csExit :: es  => k == len && wholeFrames len none es
  | none,   .byte _ :: _   => false
  | none,   .csExit :: _   => false
  | some _, .csEnter :: _  => false

/-- The frame the state's pixels stand for (45_bitstream R136). -/
def State.frame (s : State) : List Byte := frameBytes s.pwm5 s.pix s.cfg.numLeds.toNat

/-- A channel's place in the order on the wire, the value of `CH` (10_state R31). -/
def channelNumber : Channel → Nat
  | .green => 0
  | .red   => 1
  | .blue  => 2

/-- How many bytes of the frame in progress the encoder has sent, read off its cursor (10_state R31, 45_bitstream R145). -/
def State.sentBytes (s : State) : Nat :=
  if s.frameSent then 24 * s.cfg.numLeds.toNat
  else 24 * s.cursor.pi.toNat + 8 * channelNumber s.cursor.ch + s.cursor.bi.toNat

/-- The trace is whole frames, followed inside a frame by its `CsEnter` and the part of it that is sent. -/
def State.traceWf (s : State) : Prop :=
  ∃ whole : List Event,
    wholeFrames (24 * s.cfg.numLeds.toNat) none whole = true ∧
    s.trace = whole ++ (if s.busy then .csEnter :: (s.frame.take s.sentBytes).map .byte else [])

/-! ### The invariant -/

/-- The pinned points of the tables: `P5_TOP`, `P5_ZERO`, `P4_ZERO`, `P4_MID`, `P4_TOP` (42_pwm_lut R101, R102). -/
abbrev State.romsPinned (s : State) : Prop :=
  s.pwm5.get 31 = 255#8 ∧ s.pwm5.get 0 = 0#8 ∧
  s.pwm4.get 0 = 0#8 ∧ s.pwm4.get 8 = 95#8 ∧ s.pwm4.get 15 = 255#8

/-- The geometry invariant of 10_state R23. -/
abbrev Geometry.legal (g : Geometry) : Prop := 1 ≤ g.ledsPerRow.toNat ∧ g.ledsPerRow.toNat ≤ g.numLeds.toNat

/-- The cursor stands for bits still to send: its pixel exists, and `SR` holds the not yet sent bits of the current duty
cycle, left-aligned (10_state R31). -/
def State.cursorWf (s : State) : Prop :=
  s.cursor.pi.toNat < s.cfg.numLeds.toNat ∧
  s.cursor.sr = channelLoad s s.cursor.pi s.cursor.ch <<< s.cursor.bi.toNat

/-- The invariant: what is true of every state a run can reach. -/
structure State.Inv (s : State) : Prop where
  /-- The pixel memory is canonical. -/
  memWf : Memory.wf s.pix
  /-- No pixel beyond `numLeds - 1` exists (20_memory R45). -/
  memBound : ∀ e ∈ s.pix, e.1 < s.cfg.numLeds.toNat
  /-- A `READY` state has a legal geometry (10_state R23). -/
  geometry : s.phase = .ready → s.cfg.legal
  /-- In `EMPTY` there is no buffer, no result and no frame, and nothing has been emitted (10_state R20, R36). -/
  emptyPhase : s.phase = .empty → s.pix = [] ∧ s.rdWritten = false ∧ s.rnWritten = false ∧ s.busy = false ∧ s.trace = []
  /-- `CFGERR` = 1 only after a rejected `NEW`, which leaves the phase `EMPTY` (10_state R27). -/
  cfgErr : s.cfgErr = true → s.phase = .empty
  /-- The low three bits of `RD.R`, `RD.G`, `RD.B` are 0 once written (10_state R25). -/
  rdLow : s.rdWritten = true →
    s.rd.r.extractLsb' 0 3 = 0#3 ∧ s.rd.g.extractLsb' 0 3 = 0#3 ∧ s.rd.b.extractLsb' 0 3 = 0#3
  /-- `RN` holds `numLeds` once written (10_state R26). -/
  rn : s.rnWritten = true → s.rn = s.cfg.numLeds
  /-- The pinned points of the ROMs. -/
  roms : s.romsPinned
  /-- Outside a frame nothing waits to be ended. -/
  idle : s.busy = false → s.frameSent = false
  /-- Inside a frame the cursor is where the trace says. -/
  cursor : s.busy = true → s.frameSent = false → s.cursorWf
  /-- The trace is whole frames and, inside a frame, a prefix of `Frame(PIX)` (45_bitstream R131, R138). -/
  trace : s.traceWf

/-! ### What a step accepts and where a pixel command points -/

/-- The command word an input presents, if it is one. -/
def presentedWord : Input → Option CmdWord
  | .command w   => some w
  | .serialDone  => none
  | .reset       => none
  | .readRd      => none
  | .readRn      => none
  | .readStatus  => none
  | .linkSetup _ => none

/-- The word the next step accepts from the command port, if it accepts one: none where a reset is due or a frame is in
progress (10_state R39, 45_bitstream R141, 70_reset_and_hazards R170). -/
def acceptedWord (s : State) : Option CmdWord :=
  if resetDue s || s.busy then none
  else
    match s.cmd with
    | some w => some w
    | none   => s.inputs.head?.bind presentedWord

/-- The command the next step executes, if it executes one. -/
def acceptedInstr (s : State) : Option Instr :=
  match acceptedWord s with
  | some w =>
    match decode w with
    | .ok i    => some i
    | .error _ => none
  | none => none

/-- The next step takes a reset: one is due, whatever the state (70_reset_and_hazards R170). -/
abbrev takesReset (s : State) : Bool := resetDue s

/-- The physical index a write command stores to, `none` where its address is invalid: `PixAddr` of its coordinates, a
linear index going through `XYfromLinear` first (43_pixel_write R113 to R117). Commands that store nothing have none. -/
def writeTarget (cfg : Geometry) : Instr → Option Nat
  | .setxy x y _ _ _    => pixAddr cfg x y
  | .setlin k _ _ _     => pixAddr cfg (xyFromLinear cfg k).1 (xyFromLinear cfg k).2
  | .setsxy x y _ _ _ _ => pixAddr cfg x y
  | .setdxy x y _ _ _ _ => pixAddr cfg x y
  | .setd k _ _ _ _     => pixAddr cfg (xyFromLinear cfg k).1 (xyFromLinear cfg k).2
  | .new ..             => none
  | .getxy ..           => none
  | .getlin ..          => none
  | .getn               => none
  | .showFrame          => none

/-- The physical index a read command loads from, as `writeTarget` (44_pixel_read R125, R126). -/
def readTarget (cfg : Geometry) : Instr → Option Nat
  | .getxy x y  => pixAddr cfg x y
  | .getlin k   => pixAddr cfg (xyFromLinear cfg k).1 (xyFromLinear cfg k).2
  | .new ..     => none
  | .setxy ..   => none
  | .setlin ..  => none
  | .setsxy ..  => none
  | .setdxy ..  => none
  | .setd ..    => none
  | .getn       => none
  | .showFrame  => none

/-- The five write commands (43_pixel_write). -/
def isWrite : Instr → Bool
  | .setxy .. => true | .setlin .. => true | .setsxy .. => true | .setdxy .. => true | .setd .. => true
  | .new .. => false | .getxy .. => false | .getlin .. => false | .getn => false | .showFrame => false

/-- The two pixel read commands (44_pixel_read). -/
def isRead : Instr → Bool
  | .getxy .. => true | .getlin .. => true
  | .new .. => false | .setxy .. => false | .setlin .. => false | .setsxy .. => false | .setdxy .. => false
  | .setd .. => false | .getn => false | .showFrame => false

/-! ### The host's duties (60_exceptions R167) -/

/-- The phase that admits a command: `EMPTY` for `NEW`, `READY` for the other nine (30_encoding R73). -/
def admittedIn : Instr → Phase
  | .new ..    => .empty
  | .setxy ..  => .ready
  | .setlin .. => .ready
  | .setsxy .. => .ready
  | .setdxy .. => .ready
  | .setd ..   => .ready
  | .getxy ..  => .ready
  | .getlin .. => .ready
  | .getn      => .ready
  | .showFrame => .ready

/-- "any sequence of defined commands admitted in the current phase" (60_exceptions R167). -/
def wordAdmitted (p : Phase) (w : CmdWord) : Bool :=
  match decode w with
  | .ok i    => admittedIn i == p
  | .error _ => false

/-- The encoder, not the inputs, makes the next step. -/
def encoderMoves (s : State) : Bool := s.busy && s.link != .waiting && !resetDue s

/-- What the host may do next: read a result once it holds a value ("not rely on `RD`/`RN` before they were first written");
present an admitted command, or, inside a frame, one command that waits; set up the link outside a frame. A reset, a
`STATUS` read and the link's own report are allowed at any time (60_exceptions R167). Where R167 leaves it open, the model
decides: log 11 (a waiting word before the next input), 15 (what breaks a duty), 17 (reports with no byte outstanding),
18 (a link that never completes), 29 (link set-up), 30 (reads inside a frame). -/
def inputAllowed (s : State) : Input → Bool
  | .command w   => if s.busy then s.cmd.isNone else wordAdmitted s.phase w
  | .serialDone  => true
  | .reset       => true
  | .readRd      => s.rdWritten
  | .readRn      => s.rnWritten
  | .readStatus  => true
  | .linkSetup _ => !s.busy

/-- The host keeps its duties at this state: what it does next is defined (60_exceptions R167). -/
def hostObeys (s : State) : Bool :=
  if resetDue s || encoderMoves s then true
  else
    match s.busy, s.cmd with
    | false, some w => wordAdmitted s.phase w
    | _,     _      => s.inputs.head?.all (inputAllowed s)

end Sys2Proof.Machine
end

