-- ==== Sys2Proof/Certificates/Slice0/Obligations.lean ====
section
/-! DEFINITION. The statements for the provers, one per fact of spec/ about what a command or the machine does. A statement
holds in every state; where it needs a reachable one it assumes `State.Inv` or the part of it that it uses. -/

open Sys2Proof Sys2Proof.Machine

/-! ### Encoding (30_encoding) -/

/-- Decoding an encoded command gives it back, for every command and every operand value (30_encoding R64 to R66, R70). -/
def Obligations.DecodeOfEncodeIsTheCommand : Prop := ∀ i : Instr, decode (encode i) = .ok i

/-- Unused fields do not affect the command, whatever their value, and an assembler writes zeros into them: a word that
decodes to a command is its encoding on the bits the command uses, and every word that agrees with it there is accepted
with the same effect (30_encoding R67). -/
def Obligations.UnusedFieldsAreIgnored : Prop :=
  (∀ (w w' : CmdWord) (i : Instr) (s : State), decode w = .ok i → w &&& usedBits i = w' &&& usedBits i →
    decode w' = .ok i ∧ acceptWord w' s = acceptWord w s) ∧
  (∀ (w : CmdWord) (i : Instr), decode w = .ok i → encode i = w &&& usedBits i)

/-- Every word is exactly one command, chosen by its opcode, with its operands taken from the bits the command uses, or
reserved (30_encoding R72, R65, R68). -/
def Obligations.DecoderIsTotalAndOpcodeSelects : Prop :=
  ∀ w : CmdWord,
    ((1 ≤ (fieldOp w).toNat ∧ (fieldOp w).toNat ≤ 10) ∧ ∃ i, decode w = .ok i ∧ opcode i = fieldOp w ∧ encode i = w &&& usedBits i) ∨
    (((fieldOp w).toNat = 0 ∨ 11 ≤ (fieldOp w).toNat) ∧ decode w = .error (.reserved (fieldOp w)))

/-- A reserved opcode is refused, wherever the machine accepts the word (30_encoding R68). -/
def Obligations.ReservedOpcodeIsRefused : Prop :=
  ∀ (w : CmdWord) (s : State), ((fieldOp w).toNat = 0 ∨ 11 ≤ (fieldOp w).toNat) →
    acceptedWord s = some w → step s = .refused (.reservedOpcode (fieldOp w))

/-- The nine bytes of a word, `OP` first, decode as the word does; no other number of bytes is a command (30_encoding R63, R69). -/
def Obligations.NineBytesOpcodeFirstAreTheWord : Prop :=
  (∀ w : CmdWord, decodeBytes (bytesOfWord w) = decode w) ∧
  (∀ bs : List Byte, bs.length ≠ 9 → decodeBytes bs = .error (.length bs.length))

/-- Words written out from 30_encoding R63 to R67 decode to the commands they stand for (95_test_vectors 2.1). -/
def Obligations.WordsOfTheSpecDecode : Prop :=
  decode 0x010006000300000002#72 = .ok (.new 6 3 false true) ∧
  decode 0x010004000400000001#72 = .ok (.new 4 4 true false) ∧
  decode 0x0200000001FF800700#72 = .ok (.setxy 0 1 255 128 7) ∧
  decode 0x0300030000FFFFFF5A#72 = .ok (.setlin 3 255 255 255) ∧
  decode 0x0400010000C8643280#72 = .ok (.setsxy 1 0 200 100 50 128) ∧
  decode 0x0500020000FFFFFF80#72 = .ok (.setdxy 2 0 255 255 255 128) ∧
  decode 0x0600040000FF0008FF#72 = .ok (.setd 4 255 0 8 255) ∧
  decode 0x070000000100000000#72 = .ok (.getxy 0 1) ∧
  decode 0x080003000000000000#72 = .ok (.getlin 3) ∧
  decode 0x09FFFFFFFFFFFFFFFF#72 = .ok .getn ∧
  decode 0x0A123456789ABCDEF0#72 = .ok .showFrame

/-- The assembler (30_encoding R70, R71): a line assembles exactly when its operands match a form of its name and fit their
fields, and then the word is the name's opcode and its fields hold the numbers written, nothing truncated, for each of the
ten names; the pseudo-instructions expand as the table says; the default row length exists only in the assembler, since a
word with `B` = 0 is a `NEW` that the block rejects. -/
def Obligations.AssemblerNeverTruncates : Prop :=
  (∀ l : AsmLine, (∃ i, assemble l = some i) ↔ l.wf = true) ∧
  (∀ (n l xr alt : Nat) (i : Instr), assemble ⟨.new, [n, l, xr, alt]⟩ = some i →
    fieldOp (encode i) = 0x01#8 ∧ (fieldA (encode i)).toNat = n ∧ (fieldB (encode i)).toNat = l ∧
    (fieldAux (encode i)).toNat = 2 * alt + xr) ∧
  (∀ (x y r g b : Nat) (i : Instr), assemble ⟨.setxy, [x, y, r, g, b]⟩ = some i →
    fieldOp (encode i) = 0x02#8 ∧ (fieldA (encode i)).toNat = x ∧ (fieldB (encode i)).toNat = y ∧
    (fieldR (encode i)).toNat = r ∧ (fieldG (encode i)).toNat = g ∧ (fieldBl (encode i)).toNat = b) ∧
  (∀ (k r g b : Nat) (i : Instr), assemble ⟨.set, [k, r, g, b]⟩ = some i →
    fieldOp (encode i) = 0x03#8 ∧ (fieldA (encode i)).toNat = k ∧ (fieldR (encode i)).toNat = r ∧
    (fieldG (encode i)).toNat = g ∧ (fieldBl (encode i)).toNat = b) ∧
  (∀ (x y r g b v : Nat) (i : Instr), assemble ⟨.setsxy, [x, y, r, g, b, v]⟩ = some i →
    fieldOp (encode i) = 0x04#8 ∧ (fieldA (encode i)).toNat = x ∧ (fieldB (encode i)).toNat = y ∧
    (fieldR (encode i)).toNat = r ∧ (fieldG (encode i)).toNat = g ∧ (fieldBl (encode i)).toNat = b ∧
    (fieldAux (encode i)).toNat = v) ∧
  (∀ (x y r g b br : Nat) (i : Instr), assemble ⟨.setdxy, [x, y, r, g, b, br]⟩ = some i →
    fieldOp (encode i) = 0x05#8 ∧ (fieldA (encode i)).toNat = x ∧ (fieldB (encode i)).toNat = y ∧
    (fieldR (encode i)).toNat = r ∧ (fieldG (encode i)).toNat = g ∧ (fieldBl (encode i)).toNat = b ∧
    (fieldAux (encode i)).toNat = br) ∧
  (∀ (k r g b br : Nat) (i : Instr), assemble ⟨.setd, [k, r, g, b, br]⟩ = some i →
    fieldOp (encode i) = 0x06#8 ∧ (fieldA (encode i)).toNat = k ∧ (fieldR (encode i)).toNat = r ∧
    (fieldG (encode i)).toNat = g ∧ (fieldBl (encode i)).toNat = b ∧ (fieldAux (encode i)).toNat = br) ∧
  (∀ (x y : Nat) (i : Instr), assemble ⟨.getxy, [x, y]⟩ = some i →
    fieldOp (encode i) = 0x07#8 ∧ (fieldA (encode i)).toNat = x ∧ (fieldB (encode i)).toNat = y) ∧
  (∀ (k : Nat) (i : Instr), assemble ⟨.get, [k]⟩ = some i →
    fieldOp (encode i) = 0x08#8 ∧ (fieldA (encode i)).toNat = k) ∧
  (∀ i : Instr, assemble ⟨.getn, []⟩ = some i → fieldOp (encode i) = 0x09#8) ∧
  (∀ i : Instr, assemble ⟨.showFrame, []⟩ = some i → fieldOp (encode i) = 0x0A#8) ∧
  (∀ n : Nat, assemble ⟨.new, [n]⟩ = assemble ⟨.new, [n, n, 0, 0]⟩) ∧
  (∀ n l : Nat, assemble ⟨.new, [n, l]⟩ = assemble ⟨.new, [n, l, 0, 0]⟩) ∧
  (∀ n l xr : Nat, assemble ⟨.new, [n, l, xr]⟩ = assemble ⟨.new, [n, l, xr, 0]⟩) ∧
  assemble ⟨.flush, []⟩ = assemble ⟨.showFrame, []⟩ ∧
  (∀ x y r g b : Nat, assemble ⟨.write, [x, y, r, g, b]⟩ = assemble ⟨.setxy, [x, y, r, g, b]⟩) ∧
  (∀ x y r g b br : Nat, assemble ⟨.write, [x, y, r, g, b, br]⟩ = assemble ⟨.setdxy, [x, y, r, g, b, br]⟩) ∧
  (∀ x y : Nat, assemble ⟨.read, [x, y]⟩ = assemble ⟨.getxy, [x, y]⟩) ∧
  (∀ (n : Index) (xr alt : Bool) (s : State), s.phase = .empty →
    exec (.new n 0#16 xr alt) s = .next { s with cfgErr := true })

/-- The assembler accepts a line exactly where each number fits the field that 30_encoding R63 and R64 give it, with the
flags of `NEW` 0 or 1 (30_encoding R70); a line whose number of operands is none of its name's is no command (R70, R71). -/
def Obligations.AssemblerAcceptsExactlyWhatFits : Prop :=
  (∀ n l xr alt : Nat, (assemble ⟨.new, [n, l, xr, alt]⟩).isSome = true ↔ n < 65536 ∧ l < 65536 ∧ xr < 2 ∧ alt < 2) ∧
  (∀ x y r g b : Nat, (assemble ⟨.setxy, [x, y, r, g, b]⟩).isSome = true ↔
    x < 65536 ∧ y < 65536 ∧ r < 256 ∧ g < 256 ∧ b < 256) ∧
  (∀ k r g b : Nat, (assemble ⟨.set, [k, r, g, b]⟩).isSome = true ↔ k < 65536 ∧ r < 256 ∧ g < 256 ∧ b < 256) ∧
  (∀ (name : AsmName) (x y r g b v : Nat), name = .setsxy ∨ name = .setdxy →
    ((assemble ⟨name, [x, y, r, g, b, v]⟩).isSome = true ↔
      x < 65536 ∧ y < 65536 ∧ r < 256 ∧ g < 256 ∧ b < 256 ∧ v < 256)) ∧
  (∀ k r g b br : Nat, (assemble ⟨.setd, [k, r, g, b, br]⟩).isSome = true ↔
    k < 65536 ∧ r < 256 ∧ g < 256 ∧ b < 256 ∧ br < 256) ∧
  (∀ x y : Nat, (assemble ⟨.getxy, [x, y]⟩).isSome = true ↔ x < 65536 ∧ y < 65536) ∧
  (∀ k : Nat, (assemble ⟨.get, [k]⟩).isSome = true ↔ k < 65536) ∧
  (assemble ⟨.getn, []⟩).isSome = true ∧ (assemble ⟨.showFrame, []⟩).isSome = true ∧
  (∀ p ∈ [(AsmName.new, [1, 2, 3, 4]), (.setxy, [5]), (.set, [4]), (.setsxy, [6]), (.setdxy, [6]), (.setd, [5]),
      (.getxy, [2]), (.get, [1]), (.getn, [0]), (.showFrame, [0]), (.flush, [0]), (.write, [5, 6]), (.read, [2])],
    ∀ ns : List Nat, (assemble ⟨p.1, ns⟩).isSome = true → ns.length ∈ p.2)

/-! ### The step and the command port -/

/-- A step runs the command it accepts: a word that waits on the port (with no reset due), a word the host presents now, and
a word placed by `withFetchWord`, each is taken off the port (or off the inputs) and executed, and the step does nothing
else. With no word and no input the block is idle and holds its state (60_exceptions R165). Two clauses rest on the
model's choice (DESIGN CHOICE): that a waiting word goes before the next input (log 11), and that `withFetchWord` places a
word with the port free and ready, `BUSY` = 0 (log 10). -/
def Obligations.StepRunsTheAcceptedCommand : Prop :=
  (∀ (s : State) (w : CmdWord) (i : Instr), takesReset s = false → s.busy = false → s.cmd = some w → decode w = .ok i →
    step s = exec i { s with cmd := none }) ∧
  (∀ (s : State) (w : CmdWord) (rest : List Input) (i : Instr), s.busy = false → s.cmd = none →
    s.inputs = .command w :: rest → decode w = .ok i → step s = exec i { s with inputs := rest }) ∧
  (∀ (s : State) (nbits w : Nat) (i : Instr), decodeTableWord nbits w = some i →
    step (s.withFetchWord nbits w) = exec i { s with cmd := none, busy := false }) ∧
  (∀ s : State, s.busy = false → s.cmd = none → s.inputs = [] → step s = .next s)

/-- While `BUSY` = 1 the port accepts nothing: a word presented during a frame goes on the port, stays there until the frame
ends, and is the word the next step then accepts (45_bitstream R141); a reset takes it away, which is the model's choice
(DESIGN CHOICE, log 14). -/
def Obligations.CommandWaitsForTheFrame : Prop :=
  (∀ s : State, s.busy = true → cmdReady s = false) ∧
  (∀ (s : State) (w : CmdWord) (rest : List Input), s.busy = true → s.link = .waiting → s.cmd = none →
    s.inputs = .command w :: rest → step s = .next { s with cmd := some w, inputs := rest }) ∧
  (∀ (s t : State) (w : CmdWord), s.busy = true → s.cmd = some w → step s = .next t → takesReset s = false →
    t.cmd = some w ∧ t.pix = s.pix ∧ t.cfg = s.cfg ∧ (t.busy = false → acceptedWord t = some w)) ∧
  (∀ (s t : State) (w : CmdWord), s.cmd = some w → takesReset s = true → step s = .next t → t.cmd = none)

/-- Admission by phase (30_encoding R73): in `EMPTY` only `NEW` is admitted, in `READY` everything but `NEW`; an admitted
command completes, one that is not is refused, and no command faults (60_exceptions R154). -/
def Obligations.CommandsCompleteExactlyInTheirPhase : Prop :=
  (∀ (i : Instr) (s : State), (∃ t, exec i s = .next t) ↔ s.phase = admittedIn i) ∧
  (∀ (i : Instr) (s : State), s.phase = .empty → admittedIn i = .ready → exec i s = .refused .noBuffer) ∧
  (∀ (n l : Index) (xr alt : Bool) (s : State), s.phase = .ready →
    exec (.new n l xr alt) s = .refused .alreadyConstructed) ∧
  (∀ (i : Instr) (s : State) (f : Fault), exec i s ≠ .fault f)

/-- A step goes on exactly where the host keeps its duties (`hostObeys`, after 60_exceptions R167). Where R167 does not say
what becomes of an interaction, `hostObeys` is the model's choice: a waiting word comes before the next input, so that the
word alone decides (log 11), a second word on the port and link set-up inside a frame stop (log 15), a report with no byte
outstanding goes on (log 17), link set-up goes on at any time outside a frame (log 29), and so do host reads inside a frame
(log 30). It also rests on log 18 (DEDUCED): a frame that waits for the link with no input left, which the spec calls stuck
(93 I9), is a step that goes on and changes nothing. -/
def Obligations.StepGoesOnExactlyWhereTheHostObeys : Prop :=
  ∀ s : State, (∃ t, step s = .next t) ↔ hostObeys s = true

/-- A host that reads `RD` or `RN` while it holds no value faults; once written, the read goes on and changes nothing
(10_state R25, R26, 93 I4). -/
def Obligations.ReadOfUnwrittenResultFaults : Prop :=
  ∀ (s : State) (rest : List Input), s.busy = false → s.cmd = none →
    (s.inputs = .readRd :: rest → s.rdWritten = false → step s = .fault .rdUnwritten) ∧
    (s.inputs = .readRn :: rest → s.rnWritten = false → step s = .fault .rnUnwritten) ∧
    (s.inputs = .readRd :: rest → s.rdWritten = true → step s = .next { s with inputs := rest }) ∧
    (s.inputs = .readRn :: rest → s.rnWritten = true → step s = .next { s with inputs := rest }) ∧
    (s.inputs = .readStatus :: rest → step s = .next { s with inputs := rest })

/-! ### Reset (10_state R36, 70_reset_and_hazards) -/

/-- What reset leaves (10_state R36): phase `EMPTY`, `STATUS` = `0b000`, no buffer and every command but `NEW` refused, `RD`
and `RN` without value, the ROMs' pinned points, an empty trace; and after a successful `NEW` every pixel `(0,0,0)`. -/
def Obligations.ResetLeavesAnEmptyBlock : Prop :=
  State.reset.phase = .empty ∧ statusWord State.reset = 0b000#3 ∧ State.reset.pix = [] ∧
  (∀ i : Instr, admittedIn i = .ready → exec i State.reset = .refused .noBuffer) ∧
  hostReadRd State.reset = .fault .rdUnwritten ∧ hostReadRn State.reset = .fault .rnUnwritten ∧
  State.reset.romsPinned ∧ State.reset.trace = [] ∧
  (∀ (n l : Index) (xr alt : Bool), degenerate n l = false → ∃ t, exec (.new n l xr alt) State.reset = .next t ∧
    ∀ k : Nat, memRead t.pix k = Pixel.black)

/-- The invariant holds at reset. -/
def Obligations.InvariantHoldsAtReset : Prop := State.reset.Inv

/-- Asserting `RST` puts the block in phase `EMPTY` from any state, between commands, inside a frame, and where a word waits on
the port; the ROMs are unaffected and a new run's trace starts empty (70_reset_and_hazards R170, R171). -/
def Obligations.ResetEntersEmpty : Prop :=
  ∀ (s : State) (rest : List Input), s.inputs = .reset :: rest →
    ∃ t, step s = .next t ∧ t.phase = .empty ∧ statusWord t = 0b000#3 ∧ t.pix = [] ∧
      t.rdWritten = false ∧ t.rnWritten = false ∧ t.trace = [] ∧
      t.pwm5 = s.pwm5 ∧ t.pwm4 = s.pwm4 ∧ t.inputs = rest

/-- A reset inside a frame cuts it: the bytes already emitted stay, no further byte follows, and the tail after the cut is
nothing or `CsExit`; outside a frame nothing is added (70_reset_and_hazards R172, 93 I5). -/
def Obligations.ResetDuringFrameCutsTheTrace : Prop :=
  ∀ s t : State, takesReset s = true → step s = .next t →
    (s.busy = true → t.pastRuns = s.pastRuns ++ [s.trace] ∨ t.pastRuns = s.pastRuns ++ [s.trace ++ [.csExit]]) ∧
    (s.busy = false → t.pastRuns = s.pastRuns ++ [s.trace]) ∧
    t.trace = [] ∧ t.phase = .empty ∧ t.busy = false

/-! ### Construction and geometry query (40_construct) -/

/-- `NEW` (40_construct R80): refused in `READY`; a degenerate geometry sets `CFGERR` and changes nothing else; else the
geometry is written, every pixel is black, `CFGERR` is 0 and the phase `READY`, and nothing else changes. -/
def Obligations.NewConstructsOrRejects : Prop :=
  ∀ (n l : Index) (xr alt : Bool) (s : State),
    (s.phase = .ready → exec (.new n l xr alt) s = .refused .alreadyConstructed) ∧
    (s.phase = .empty → (n.toNat = 0 ∨ l.toNat = 0 ∨ n.toNat < l.toNat) →
      exec (.new n l xr alt) s = .next { s with cfgErr := true }) ∧
    (s.phase = .empty → 1 ≤ l.toNat → l.toNat ≤ n.toNat →
      ∃ t, exec (.new n l xr alt) s = .next t ∧
        t = { s with cfg := ⟨n, l, xr, alt⟩, pix := t.pix, cfgErr := false, phase := .ready } ∧
        ∀ k : Nat, memRead t.pix k = Pixel.black)

/-- `ConfigError` (60_exceptions R151): raised by `NEW` alone, exactly on a degenerate geometry; the phase stays `EMPTY`, only
`CFGERR` changes, and the next `NEW` is admitted. -/
def Obligations.ConfigErrorSetsOneBit : Prop :=
  (∀ (i : Instr) (s t : State), exec i s = .next t → s.cfgErr = false → t.cfgErr = true →
    ∃ n l xr alt, i = .new n l xr alt ∧ (n.toNat = 0 ∨ l.toNat = 0 ∨ n.toNat < l.toNat)) ∧
  (∀ (n l : Index) (xr alt : Bool) (s : State), s.phase = .empty → (n.toNat = 0 ∨ l.toNat = 0 ∨ n.toNat < l.toNat) →
    exec (.new n l xr alt) s = .next { s with cfgErr := true } ∧
    ∀ (n' l' : Index) (xr' alt' : Bool), ∃ t, exec (.new n' l' xr' alt') { s with cfgErr := true } = .next t)

/-- `CFGERR` tells the outcome of the most recent `NEW`: a rejected one leaves it 1, also where it was 1, and a successful one
leaves it 0 (10_state R27, R29, 60_exceptions R158). -/
def Obligations.CfgErrTellsTheLastNew : Prop :=
  ∀ (n l : Index) (xr alt : Bool) (s t : State), exec (.new n l xr alt) s = .next t →
    (t.cfgErr = true ↔ n.toNat = 0 ∨ l.toNat = 0 ∨ n.toNat < l.toNat) ∧ (t.phase = .ready ↔ t.cfgErr = false)

/-- `GETN` (40_construct R84): `RN` is the configured LED count; nothing else changes; refused in `EMPTY`. -/
def Obligations.GetnDeliversTheLedCount : Prop :=
  ∀ s : State,
    (s.phase = .empty → exec .getn s = .refused .noBuffer) ∧
    (s.phase = .ready → exec .getn s = .next { s with rn := s.cfg.numLeds, rnWritten := true })

/-! ### The addressing transform (41_addressing) -/

/-- `PixAddr` (41_addressing R94) on the exact index of R90, R91: invalid from the row length on, invalid from `numLeds` on,
else the physical index; the index never wraps. -/
def Obligations.PixAddrChecksColumnThenIndex : Prop :=
  ∀ (cfg : Geometry) (x y : Index),
    (cfg.ledsPerRow.toNat ≤ x.toNat → pixAddr cfg x y = none) ∧
    (x.toNat < cfg.ledsPerRow.toNat → ∀ k : Nat,
      k = y.toNat * cfg.ledsPerRow.toNat +
        (if cfg.xReversed ^^ (cfg.alternating && decide (y.toNat % 2 = 1)) then cfg.ledsPerRow.toNat - 1 - x.toNat else x.toNat) →
      (cfg.numLeds.toNat ≤ k → pixAddr cfg x y = none) ∧ (k < cfg.numLeds.toNat → pixAddr cfg x y = some k))

/-- `XYfromLinear` (41_addressing R93): remainder and quotient by the row length, so that the column is always in the row. -/
def Obligations.LinearIndexSplitsIntoColumnAndRow : Prop :=
  ∀ (cfg : Geometry) (i : Index), 1 ≤ cfg.ledsPerRow.toNat →
    (xyFromLinear cfg i).1.toNat = i.toNat % cfg.ledsPerRow.toNat ∧
    (xyFromLinear cfg i).2.toNat = i.toNat / cfg.ledsPerRow.toNat ∧
    (xyFromLinear cfg i).1.toNat < cfg.ledsPerRow.toNat ∧
    i.toNat = (xyFromLinear cfg i).2.toNat * cfg.ledsPerRow.toNat + (xyFromLinear cfg i).1.toNat

/-- The permutation property (41_addressing R95): each row is a bijection onto its own block of indices, the full rows
together are a bijection onto `0 .. L*rows-1`, and two different valid coordinates never address the same pixel. -/
def Obligations.TransformIsAPermutation : Prop :=
  ∀ cfg : Geometry, cfg.legal →
    (∀ x y : Index, x < cfg.ledsPerRow →
      y.toNat * cfg.ledsPerRow.toNat ≤ ledIndexFromXY cfg x y ∧
      ledIndexFromXY cfg x y < y.toNat * cfg.ledsPerRow.toNat + cfg.ledsPerRow.toNat) ∧
    (∀ (y : Index) (k : Nat), y.toNat * cfg.ledsPerRow.toNat ≤ k →
      k < y.toNat * cfg.ledsPerRow.toNat + cfg.ledsPerRow.toNat →
      ∃! x : Index, x < cfg.ledsPerRow ∧ ledIndexFromXY cfg x y = k) ∧
    (∀ k : Nat, k < cfg.ledsPerRow.toNat * (cfg.numLeds.toNat / cfg.ledsPerRow.toNat) →
      ∃! p : Index × Index, p.1 < cfg.ledsPerRow ∧ p.2.toNat < cfg.numLeds.toNat / cfg.ledsPerRow.toNat ∧
        ledIndexFromXY cfg p.1 p.2 = k) ∧
    (∀ (x y : Index), x < cfg.ledsPerRow → y.toNat < cfg.numLeds.toNat / cfg.ledsPerRow.toNat →
      ledIndexFromXY cfg x y < cfg.ledsPerRow.toNat * (cfg.numLeds.toNat / cfg.ledsPerRow.toNat)) ∧
    (∀ (x y x' y' : Index) (k : Nat), pixAddr cfg x y = some k → pixAddr cfg x' y' = some k → x = x' ∧ y = y')

/-- The partial last row (41_addressing R96): reachable on the left where it is not reversed and on the right where it is;
through the linear index, exactly where its column is; and some indices below `numLeds` are invalid and some from it on
valid. -/
def Obligations.PartialLastRowIsReachedFromItsOwnSide : Prop :=
  (∀ (cfg : Geometry) (x y : Index), cfg.legal → y.toNat = cfg.numLeds.toNat / cfg.ledsPerRow.toNat →
    ((∃ k, pixAddr cfg x y = some k) ↔
      x < cfg.ledsPerRow ∧
      if rowReversed cfg y then cfg.ledsPerRow.toNat - cfg.numLeds.toNat % cfg.ledsPerRow.toNat ≤ x.toNat
      else x.toNat < cfg.numLeds.toNat % cfg.ledsPerRow.toNat)) ∧
  (∀ (cfg : Geometry) (i x y : Index), cfg.legal → y.toNat = cfg.numLeds.toNat / cfg.ledsPerRow.toNat →
    x < cfg.ledsPerRow → i.toNat = y.toNat * cfg.ledsPerRow.toNat + x.toNat →
    pixAddr cfg (xyFromLinear cfg i).1 (xyFromLinear cfg i).2 = pixAddr cfg x y) ∧
  (∃ (cfg : Geometry) (i j : Index), cfg.legal ∧ i < cfg.numLeds ∧ cfg.numLeds ≤ j ∧
    pixAddr cfg (xyFromLinear cfg i).1 (xyFromLinear cfg i).2 = none ∧
    ∃ k, pixAddr cfg (xyFromLinear cfg j).1 (xyFromLinear cfg j).2 = some k)

/-- The closed form for the linear index (41_addressing R98): itself in a row that is not reversed, mirrored inside its row
else; without reversal it is the physical index, valid exactly below `numLeds`. -/
def Obligations.LinearIndexHasItsClosedForm : Prop :=
  ∀ (cfg : Geometry) (i x y : Index), 1 ≤ cfg.ledsPerRow.toNat → xyFromLinear cfg i = (x, y) →
    (rowReversed cfg y = false → ledIndexFromXY cfg x y = i.toNat) ∧
    (rowReversed cfg y = true →
      ledIndexFromXY cfg x y + i.toNat + 1 = 2 * y.toNat * cfg.ledsPerRow.toNat + cfg.ledsPerRow.toNat) ∧
    (cfg.xReversed = false → cfg.alternating = false →
      ((∃ k, pixAddr cfg x y = some k) ↔ i < cfg.numLeds) ∧ ∀ k, pixAddr cfg x y = some k → k = i.toNat)

/-! ### Channel datapath (42_pwm_lut) -/

/-- `Trunc5` is the floor of an eighth, `Expand8` eight times, and the round trip keeps the top five bits
(42_pwm_lut R104 to R106). -/
def Obligations.TruncationRoundTrip : Prop :=
  (∀ c : Byte, (trunc5 c).toNat = c.toNat / 8) ∧ (∀ v : Level, (expand8 v).toNat = v.toNat * 8) ∧
  (∀ c : Byte, expand8 (trunc5 c) = c &&& 0xF8#8) ∧ (∀ v : Level, trunc5 (expand8 v) = v)

/-- `Scale8` is the exact product divided by 256 (42_pwm_lut R107), with the properties of R108: zero, bounds, 255 is not the
identity and shows after truncation exactly at the non-zero multiples of 8, monotone in each argument. -/
def Obligations.ScalingLaws : Prop :=
  (∀ c s : Byte, (scale8 c s).toNat = c.toNat * s.toNat / 256 ∧ (scale8 c s).toNat ≤ 254) ∧
  (∀ c s : Byte, scale8 c 0#8 = 0#8 ∧ scale8 0#8 s = 0#8) ∧
  (∀ c s : Byte, scale8 c s ≤ c ∧ scale8 c s ≤ s ∧ (c ≠ 0#8 → scale8 c s < c)) ∧
  (∀ c : Byte, (scale8 c 255#8).toNat = c.toNat - 1) ∧
  (∀ c : Byte, trunc5 (scale8 c 255#8) ≠ trunc5 c ↔ c ≠ 0#8 ∧ c.toNat % 8 = 0) ∧
  (∀ c c' s s' : Byte, c ≤ c' → s ≤ s' → scale8 c s ≤ scale8 c' s')

/-- `brightnessToPWM` reads entry `brightness >> 4` of `PWM4`, so that the low four bits have no effect, and is 0, 95, 255 on
the three ranges the pinned points fix (42_pwm_lut R103). -/
def Obligations.BrightnessReadsTheHighNibble : Prop :=
  (∀ (rom : Vector Byte 16) (br : Byte) (k : Fin 16), k.val = br.toNat / 16 → brightnessToPwm rom br = rom.get k) ∧
  (∀ (s : State) (br : Byte), s.romsPinned →
    (br.toNat ≤ 15 → brightnessToPwm s.pwm4 br = 0#8) ∧
    (128 ≤ br.toNat → br.toNat ≤ 143 → brightnessToPwm s.pwm4 br = 95#8) ∧
    (240 ≤ br.toNat → brightnessToPwm s.pwm4 br = 255#8))

/-! ### Pixel write commands (43_pixel_write) -/

/-- `SETXY` (43_pixel_write R113): stores the truncated channels at the addressed pixel, each in its own field, and is a
`nop` where the address is invalid. -/
def Obligations.SetxyStoresTheTruncatedColour : Prop :=
  ∀ (x y : Index) (r g b : Byte) (s : State), s.phase = .ready →
    (pixAddr s.cfg x y = none → exec (.setxy x y r g b) s = .next s) ∧
    (∀ k, pixAddr s.cfg x y = some k →
      exec (.setxy x y r g b) s = .next { s with pix := memWrite s.pix k ⟨trunc5 r, trunc5 g, trunc5 b⟩ } ∧
      (Memory.wf s.pix → memRead (memWrite s.pix k ⟨trunc5 r, trunc5 g, trunc5 b⟩) k = ⟨trunc5 r, trunc5 g, trunc5 b⟩))

/-- `SET` (43_pixel_write R114): `SETXY` at the coordinates of its logical index. -/
def Obligations.SetStoresAtItsLogicalIndex : Prop :=
  ∀ (i : Index) (r g b : Byte) (s : State), s.phase = .ready →
    exec (.setlin i r g b) s = exec (.setxy (i % s.cfg.ledsPerRow) (i / s.cfg.ledsPerRow) r g b) s ∧
    (pixAddr s.cfg (i % s.cfg.ledsPerRow) (i / s.cfg.ledsPerRow) = none → exec (.setlin i r g b) s = .next s) ∧
    (∀ k, pixAddr s.cfg (i % s.cfg.ledsPerRow) (i / s.cfg.ledsPerRow) = some k →
      exec (.setlin i r g b) s = .next { s with pix := memWrite s.pix k ⟨trunc5 r, trunc5 g, trunc5 b⟩ })

/-- `SETSXY` (43_pixel_write R115): `SETXY` with each channel scaled. -/
def Obligations.SetsxyStoresTheScaledColour : Prop :=
  ∀ (x y : Index) (r g b f : Byte) (s : State), s.phase = .ready →
    (pixAddr s.cfg x y = none → exec (.setsxy x y r g b f) s = .next s) ∧
    (∀ k, pixAddr s.cfg x y = some k →
      exec (.setsxy x y r g b f) s =
        .next { s with pix := memWrite s.pix k ⟨trunc5 (scale8 r f), trunc5 (scale8 g f), trunc5 (scale8 b f)⟩ })

/-- `SETDXY` (43_pixel_write R116): `SETSXY` with the scale `PWM4[brightness >> 4]`. -/
def Obligations.SetdxyStoresTheDimmedColour : Prop :=
  ∀ (x y : Index) (r g b br : Byte) (s : State) (f : Byte), s.phase = .ready → brightnessToPwm s.pwm4 br = f →
    (pixAddr s.cfg x y = none → exec (.setdxy x y r g b br) s = .next s) ∧
    (∀ k, pixAddr s.cfg x y = some k →
      exec (.setdxy x y r g b br) s =
        .next { s with pix := memWrite s.pix k ⟨trunc5 (scale8 r f), trunc5 (scale8 g f), trunc5 (scale8 b f)⟩ })

/-- `SETD` (43_pixel_write R117): `SETDXY` at the coordinates of its logical index. -/
def Obligations.SetdStoresTheDimmedColourAtItsIndex : Prop :=
  ∀ (i : Index) (r g b br : Byte) (s : State) (f : Byte), s.phase = .ready → brightnessToPwm s.pwm4 br = f →
    exec (.setd i r g b br) s = exec (.setdxy (i % s.cfg.ledsPerRow) (i / s.cfg.ledsPerRow) r g b br) s ∧
    (pixAddr s.cfg (i % s.cfg.ledsPerRow) (i / s.cfg.ledsPerRow) = none → exec (.setd i r g b br) s = .next s) ∧
    (∀ k, pixAddr s.cfg (i % s.cfg.ledsPerRow) (i / s.cfg.ledsPerRow) = some k →
      exec (.setd i r g b br) s =
        .next { s with pix := memWrite s.pix k ⟨trunc5 (scale8 r f), trunc5 (scale8 g f), trunc5 (scale8 b f)⟩ })

/-- The frame of the five write commands (43_pixel_write R118): nothing but the pixel memory changes, every pixel but the
addressed one reads as before, and with an invalid address nothing changes at all. -/
def Obligations.WriteCommandsChangeOnlyTheAddressedPixel : Prop :=
  ∀ (i : Instr) (s t : State), isWrite i = true → exec i s = .next t →
    t = { s with pix := t.pix } ∧
    (writeTarget s.cfg i = none → t = s) ∧
    (∀ k, writeTarget s.cfg i = some k → ∀ j, j ≠ k → memRead t.pix j = memRead s.pix j)

/-- The two addressing forms agree (43_pixel_write R119). -/
def Obligations.LinearAndXyWritesAgree : Prop :=
  (∀ (i : Index) (r g b br : Byte) (s : State),
    exec (.setlin i r g b) s = exec (.setxy (i % s.cfg.ledsPerRow) (i / s.cfg.ledsPerRow) r g b) s ∧
    exec (.setd i r g b br) s = exec (.setdxy (i % s.cfg.ledsPerRow) (i / s.cfg.ledsPerRow) r g b br) s) ∧
  (∀ (x y i : Index) (r g b br : Byte) (s : State), x < s.cfg.ledsPerRow →
    i.toNat = y.toNat * s.cfg.ledsPerRow.toNat + x.toNat →
    exec (.setxy x y r g b) s = exec (.setlin i r g b) s ∧
    exec (.setdxy x y r g b br) s = exec (.setd i r g b br) s)

/-- Writes are idempotent, and the last of two writes to a pixel stands (20_memory R59, R54). -/
def Obligations.RepeatedWriteIsOneWrite : Prop :=
  ∀ (i j : Instr) (s t u : State), Memory.wf s.pix → isWrite i = true → isWrite j = true →
    writeTarget s.cfg i = writeTarget s.cfg j → exec i s = .next t → exec j t = .next u → exec j s = .next u

/-- The canonical form is canonical: two memories that read alike everywhere are equal (log 1). -/
def Obligations.EqualReadsMeanEqualMemories : Prop :=
  ∀ m m' : PixMem, Memory.wf m → Memory.wf m' → (∀ k, memRead m k = memRead m' k) → m = m'

/-! ### Pixel read commands (44_pixel_read) -/

/-- `GETXY` (44_pixel_read R125): each result channel is its own stored field expanded; an invalid address is a `nop`, so
that `RD` keeps what it held. -/
def Obligations.GetxyDeliversTheExpandedPixel : Prop :=
  ∀ (x y : Index) (s : State), s.phase = .ready →
    (pixAddr s.cfg x y = none → exec (.getxy x y) s = .next s) ∧
    (∀ k, pixAddr s.cfg x y = some k →
      exec (.getxy x y) s = .next { s with
        rd := ⟨expand8 (memRead s.pix k).red, expand8 (memRead s.pix k).green, expand8 (memRead s.pix k).blue⟩
        rdWritten := true })

/-- `GET` (44_pixel_read R126): `GETXY` at the coordinates of its logical index. -/
def Obligations.GetDeliversAtItsLogicalIndex : Prop :=
  ∀ (i : Index) (s : State), s.phase = .ready →
    exec (.getlin i) s = exec (.getxy (i % s.cfg.ledsPerRow) (i / s.cfg.ledsPerRow)) s ∧
    (pixAddr s.cfg (i % s.cfg.ledsPerRow) (i / s.cfg.ledsPerRow) = none → exec (.getlin i) s = .next s) ∧
    (∀ k, pixAddr s.cfg (i % s.cfg.ledsPerRow) (i / s.cfg.ledsPerRow) = some k →
      exec (.getlin i) s = .next { s with
        rd := ⟨expand8 (memRead s.pix k).red, expand8 (memRead s.pix k).green, expand8 (memRead s.pix k).blue⟩
        rdWritten := true })

/-- The write-then-read law (44_pixel_read R127): exact truncation, through coordinates and through the linear index, and
after scaling. -/
def Obligations.WriteThenReadKeepsTheTopFiveBits : Prop :=
  ∀ (s : State) (r g b f : Byte), s.phase = .ready → Memory.wf s.pix →
    (∀ (x y : Index) (k : Nat), pixAddr s.cfg x y = some k →
      (∃ t u, exec (.setxy x y r g b) s = .next t ∧ exec (.getxy x y) t = .next u ∧
        u.rdWritten = true ∧ u.rd = ⟨r &&& 0xF8#8, g &&& 0xF8#8, b &&& 0xF8#8⟩) ∧
      (∃ t u, exec (.setsxy x y r g b f) s = .next t ∧ exec (.getxy x y) t = .next u ∧
        u.rdWritten = true ∧ u.rd = ⟨scale8 r f &&& 0xF8#8, scale8 g f &&& 0xF8#8, scale8 b f &&& 0xF8#8⟩)) ∧
    (∀ (i : Index) (k : Nat), pixAddr s.cfg (xyFromLinear s.cfg i).1 (xyFromLinear s.cfg i).2 = some k →
      ∃ t u, exec (.setlin i r g b) s = .next t ∧ exec (.getlin i) t = .next u ∧
        u.rdWritten = true ∧ u.rd = ⟨r &&& 0xF8#8, g &&& 0xF8#8, b &&& 0xF8#8⟩)

/-- The frame of the two read commands (44_pixel_read R128): they change `RD` at most, no pixel, and with an invalid address
nothing at all. -/
def Obligations.ReadCommandsDisturbNothing : Prop :=
  ∀ (i : Instr) (s t : State), isRead i = true → exec i s = .next t →
    t = { s with rd := t.rd, rdWritten := t.rdWritten } ∧ t.pix = s.pix ∧ (readTarget s.cfg i = none → t = s)

/-- Out-of-range addressing is silent (60_exceptions R152): a pixel command with an invalid address completes, and no state
changes, no flag is set, no event is emitted. -/
def Obligations.OutOfRangeAddressIsSilent : Prop :=
  ∀ (i : Instr) (s : State), s.phase = .ready →
    (isWrite i = true ∧ writeTarget s.cfg i = none ∨ isRead i = true ∧ readTarget s.cfg i = none) → exec i s = .next s

/-! ### SHOW (45_bitstream) -/

/-- `SHOW` as one step (45_bitstream R131): the frame inside one `CsEnter` / `CsExit` pair is appended to the trace; nothing
else outlasts the command (`BUSY` is 0 before and after; the cursor is scratch, a free value, log 5). -/
def Obligations.ShowSendsTheFrame : Prop :=
  ∀ s : State,
    (s.phase = .empty → exec .showFrame s = .refused .noBuffer) ∧
    (s.phase = .ready → s.link = .prompt →
      ∃ t, exec .showFrame s = .next t ∧
        t.trace = s.trace ++ .csEnter :: ((List.range s.cfg.numLeds.toNat).flatMap fun i =>
          (sym8 (s.pwm5.get (memRead s.pix i).green.toFin) ++ sym8 (s.pwm5.get (memRead s.pix i).red.toFin) ++
            sym8 (s.pwm5.get (memRead s.pix i).blue.toFin)).map .byte) ++ [.csExit] ∧
        t = { s with trace := t.trace, busy := false, frameSent := false, cursor := t.cursor, draws := t.draws })

/-- The frame (45_bitstream R136): `24 * numLeds` bytes, and byte number `k` is the symbol of bit `7 - k % 8` of the duty cycle
of the green, red or blue field of pixel `k / 24`. -/
def Obligations.FrameByteFormula : Prop :=
  ∀ s : State, s.frame.length = 24 * s.cfg.numLeds.toNat ∧
    ∀ k, k < 24 * s.cfg.numLeds.toNat →
      s.frame[k]? = some (sym ((s.pwm5.get
        (if k / 8 % 3 = 0 then (memRead s.pix (k / 24)).green
         else if k / 8 % 3 = 1 then (memRead s.pix (k / 24)).red
         else (memRead s.pix (k / 24)).blue).toFin).getLsbD (7 - k % 8)))

/-- Symbols (45_bitstream R132): 1 is `0x7E`, 0 is `0x70`, and no step of the machine emits any other byte. -/
def Obligations.OnlyTheTwoSymbolsAreEmitted : Prop :=
  sym true = 0x7E#8 ∧ sym false = 0x70#8 ∧
  ∀ (s t : State) (b : Byte), step s = .next t → .byte b ∈ t.trace → .byte b ∈ s.trace ∨ b = 0x7E#8 ∨ b = 0x70#8

/-- A symbol on the line, most significant bit first (45_bitstream R140, 20_memory R50): low, high for six bit-times, low; and
low, high for three, low for four. A frame is `192 * numLeds` serial bits (70_reset_and_hazards R181). -/
def Obligations.SymbolsAreLongAndShortPulses : Prop :=
  lineLevels (sym true) = [false, true, true, true, true, true, true, false] ∧
  lineLevels (sym false) = [false, true, true, true, false, false, false, false] ∧
  ∀ s : State, (s.frame.flatMap lineLevels).length = 192 * s.cfg.numLeds.toNat

/-- Directly after `NEW` a frame is dark: `24 * numLeds` bytes `0x70` (45_bitstream R137 c, 40_construct R83). It rests on the
pinned point `PWM5[0] = 0`, the spec's decision D9 (log 8). -/
def Obligations.FrameAfterNewIsDark : Prop :=
  ∀ (n l : Index) (xr alt : Bool) (s : State), s.phase = .empty → s.link = .prompt → s.romsPinned →
    1 ≤ l.toNat → l.toNat ≤ n.toNat →
    ∃ t u, exec (.new n l xr alt) s = .next t ∧ exec .showFrame t = .next u ∧
      u.trace = s.trace ++ .csEnter :: List.replicate (24 * n.toNat) (.byte 0x70#8) ++ [.csExit]

/-- P44's example (45_bitstream R137 b): after `SET i, 255, 255, 255` for every `i` below `numLeds`, pixel 0 is white in
every geometry and the first 24 bytes of the frame are `0x7E`; all are where the last row is full or not reversed. -/
def Obligations.WhitenedPanelSendsOnes : Prop :=
  ∀ (f : Nat → State) (n : Nat), (f 0).phase = .ready → (f 0).cfg.legal → Memory.wf (f 0).pix → (f 0).romsPinned →
    n = (f 0).cfg.numLeds.toNat →
    (∀ i, i < n → exec (.setlin (BitVec.ofNat 16 i) 255#8 255#8 255#8) (f i) = .next (f (i + 1))) →
    memRead (f n).pix 0 = ⟨31#5, 31#5, 31#5⟩ ∧
    (f n).frame.take 24 = List.replicate 24 0x7E#8 ∧
    (n % (f 0).cfg.ledsPerRow.toNat = 0 ∨
        rowReversed (f 0).cfg (BitVec.ofNat 16 (n / (f 0).cfg.ledsPerRow.toNat)) = false →
      (f n).frame = List.replicate (24 * n) 0x7E#8)

/-- Start of a frame that is sent byte by byte (45_bitstream R142). -/
def Obligations.SteppedShowStartsTheFrame : Prop :=
  ∀ s : State, s.phase = .ready → s.link ≠ .prompt →
    exec .showFrame s = .next { s with
      busy := true, trace := s.trace ++ [.csEnter], frameSent := false
      cursor := ⟨0#16, .green, 0#3, s.pwm5.get (memRead s.pix 0).green.toFin⟩ }

/-- Bit step and advance (45_bitstream R144, R145): while `BUSY` = 1 and the link can take a byte, the step emits the symbol
of `SR[7]` and moves the cursor to the next bit, else to the next channel, else to the next pixel, else the frame is
sent; nothing else changes but the link, which has the byte. -/
def Obligations.EncoderStepSendsOneBit : Prop :=
  ∀ s : State, s.busy = true → s.link = .ready → s.frameSent = false → s.inputs.head? ≠ some .reset →
    ∃ t, step s = .next t ∧
      t = { s with trace := s.trace ++ [.byte (if s.cursor.sr.getLsbD 7 then 0x7E#8 else 0x70#8)]
                   link := .waiting, cursor := t.cursor, frameSent := t.frameSent } ∧
      (s.cursor.bi ≠ 7#3 → t.frameSent = false ∧
        t.cursor = { s.cursor with bi := s.cursor.bi + 1#3, sr := s.cursor.sr <<< 1 }) ∧
      (s.cursor.bi = 7#3 → s.cursor.ch = .green → t.frameSent = false ∧
        t.cursor = ⟨s.cursor.pi, .red, 0#3, s.pwm5.get (memRead s.pix s.cursor.pi.toNat).red.toFin⟩) ∧
      (s.cursor.bi = 7#3 → s.cursor.ch = .red → t.frameSent = false ∧
        t.cursor = ⟨s.cursor.pi, .blue, 0#3, s.pwm5.get (memRead s.pix s.cursor.pi.toNat).blue.toFin⟩) ∧
      (s.cursor.bi = 7#3 → s.cursor.ch = .blue → s.cursor.pi.toNat + 1 < s.cfg.numLeds.toNat → t.frameSent = false ∧
        t.cursor = ⟨s.cursor.pi + 1#16, .green, 0#3,
          s.pwm5.get (memRead s.pix (s.cursor.pi.toNat + 1)).green.toFin⟩) ∧
      (s.cursor.bi = 7#3 → s.cursor.ch = .blue → s.cfg.numLeds.toNat ≤ s.cursor.pi.toNat + 1 → t.frameSent = true ∧
        t.cursor = { s.cursor with ch := .green, bi := 0#3, sr := s.cursor.sr <<< 1 })

/-- End of a frame (45_bitstream R146): once every bit is sent and the link has completed the last, `CsExit` is emitted and
`BUSY` becomes 0; the cursor is left unspecified. While the link has not completed it, the frame does not end. -/
def Obligations.FrameEndsWhenTheLinkIsDone : Prop :=
  (∀ s : State, s.busy = true → s.link = .ready → s.frameSent = true → s.inputs.head? ≠ some .reset →
    ∃ t, step s = .next t ∧ cmdReady t = true ∧
      t = { s with trace := s.trace ++ [.csExit], busy := false, frameSent := false,
                   cursor := t.cursor, draws := t.draws }) ∧
  (∀ s t : State, s.busy = true → s.link = .waiting → takesReset s = false → step s = .next t →
    t.busy = true ∧ t.trace = s.trace)

/-- The small-step encoder and the big step agree (45_bitstream R147): from a state in which `SHOW` is presented and the link
reports each of its `24 * numLeds` bytes done, the machine ends, after accepting the command, two steps a byte and the
end, in the very state the big step gives. -/
def Obligations.SmallStepsEqualTheBigStep : Prop :=
  ∀ (s : State) (rest : List Input), s.phase = .ready → s.cfg.legal → s.busy = false → s.cmd = none →
    s.link = .ready → rest.head? ≠ some .reset →
    s.inputs = .command (encode .showFrame) :: (List.replicate (24 * s.cfg.numLeds.toNat) .serialDone ++ rest) →
    ∃ big, exec .showFrame { s with inputs := rest, link := .prompt } = .next big ∧
      core.run (48 * s.cfg.numLeds.toNat + 2) s = .next { big with link := .ready }

/-! ### The whole machine -/

/-- The invariant is kept by every step, from every state that meets it. -/
def Obligations.EveryStepKeepsTheInvariant : Prop := ∀ s t : State, s.Inv → step s = .next t → t.Inv

/-- The lookup tables are read-only and unaffected by reset (10_state R33): no step changes them. -/
def Obligations.RomsNeverChange : Prop :=
  ∀ s t : State, step s = .next t → t.pwm5 = s.pwm5 ∧ t.pwm4 = s.pwm4

/-- The geometry is legal in every `READY` state and never changes while the phase is `READY` (10_state R23): only a reset
ends the phase. -/
def Obligations.GeometryIsFixedWhileReady : Prop :=
  (∀ s : State, s.Inv → s.phase = .ready →
    1 ≤ s.cfg.ledsPerRow.toNat ∧ s.cfg.ledsPerRow.toNat ≤ s.cfg.numLeds.toNat ∧ 1 ≤ s.cfg.numLeds.toNat) ∧
  (∀ s t : State, s.phase = .ready → step s = .next t → takesReset s = false → t.phase = .ready ∧ t.cfg = s.cfg)

/-- Pixels change only by the one write a write command makes, by `NEW`, or by reset: every other step leaves every pixel
(20_memory R47, R54, 10_state R34). -/
def Obligations.PixelsChangeOnlyByWriteCommands : Prop :=
  ∀ (s t : State) (k : Nat), step s = .next t → memRead t.pix k ≠ memRead s.pix k →
    takesReset s = true ∨
    ∃ i, acceptedInstr s = some i ∧ (writeTarget s.cfg i = some k ∨ admittedIn i = .empty)

/-- `RD` is written only by a `GETXY` or `GET` whose address is valid, with the expanded pixel; `RN` only by `GETN`, with
`numLeds`; a reset takes their values away (10_state R25, R26). -/
def Obligations.ResultsChangeOnlyByTheirCommands : Prop :=
  ∀ s t : State, step s = .next t → takesReset s = false →
    ((t.rd, t.rdWritten) ≠ (s.rd, s.rdWritten) →
      ∃ i k, acceptedInstr s = some i ∧ readTarget s.cfg i = some k ∧
        t.rdWritten = true ∧ t.rd = expandPixel (memRead s.pix k)) ∧
    ((t.rn, t.rnWritten) ≠ (s.rn, s.rnWritten) →
      acceptedInstr s = some .getn ∧ t.rnWritten = true ∧ t.rn = s.cfg.numLeds)

/-- The three status bits change only as 10_state R27's table says: `READY` and `CFGERR` by `NEW` and reset, `BUSY` by the start
of `SHOW`, by the end of the same frame and by reset. -/
def Obligations.StatusChangesOnlyAsTheTableSays : Prop :=
  ∀ s t : State, step s = .next t → takesReset s = false →
    (t.phase ≠ s.phase → ∃ n l xr alt, acceptedInstr s = some (.new n l xr alt) ∧ t.phase = .ready) ∧
    (t.cfgErr ≠ s.cfgErr → ∃ n l xr alt, acceptedInstr s = some (.new n l xr alt)) ∧
    (s.busy = false → t.busy = true → acceptedInstr s = some .showFrame) ∧
    (s.busy = true → t.busy = false → s.frameSent = true ∧ s.link ≠ .waiting ∧ t.trace = s.trace ++ [.csExit])

/-- The output trace of a run only grows, and only `SHOW` and the encoder add to it; only a reset starts a new one
(00_scope R7, R8). -/
def Obligations.TraceOnlyGrowsByFrames : Prop :=
  ∀ s t : State, step s = .next t → takesReset s = false →
    t.pastRuns = s.pastRuns ∧ ∃ es, t.trace = s.trace ++ es ∧
      (es ≠ [] → s.busy = true ∨ acceptedInstr s = some .showFrame)
end

