-- ==== Sys2Proof/Laws/Assembler.lean ====
section
/-! SUPPORT. What the assembler can do, said once. -/

namespace Sys2Proof.Machine

/-- A line that assembles is well formed, and its command is its name's expansion (30_encoding R70, R71). -/
theorem assemble_eq_some {l : AsmLine} {i : Instr} :
    assemble l = some i ↔ l.wf = true ∧ expandLine l.name l.operands = some i := by
  cases h : l.wf <;> simp [assemble, h]

/-- A line that is not well formed is an assembly error (93 I11). -/
theorem assemble_of_not_wf {l : AsmLine} (h : l.wf = false) : assemble l = none := by simp [assemble, h]

/-- The flags of `NEW` as the number `AUX` holds (30_encoding R70). -/
theorem newFlags_asmFlag {xr alt : Nat} (hx : xr < 2) (ha : alt < 2) :
    (newFlags (asmFlag xr) (asmFlag alt)).toNat = 2 * alt + xr := by
  have h : ∀ x < 2, ∀ a < 2, (newFlags (asmFlag x) (asmFlag a)).toNat = 2 * a + x := by decide
  exact h xr hx alt ha

end Sys2Proof.Machine
end

