-- ==== Sys2Proof/Laws/Decode.lean ====
section
/-! SUPPORT. The fields of a packed word are the values packed (30_encoding R63). -/

namespace Sys2Proof

variable (op : Byte) (a b : Index) (r g bl aux : Byte)

@[simp] theorem fieldOp_packWord : fieldOp (packWord op a b r g bl aux) = op := by
  refine BitVec.eq_of_getLsbD_eq fun k hk => ?_
  simp only [fieldOp, packWord, BitVec.getLsbD_extractLsb', BitVec.getLsbD_append]
  simp [hk, show ¬ 64 + k < 8 by omega, show ¬ 64 + k - 8 < 8 by omega, show ¬ 64 + k - 8 - 8 < 8 by omega,
    show ¬ 64 + k - 8 - 8 - 8 < 8 by omega, show ¬ 64 + k - 8 - 8 - 8 - 8 < 16 by omega,
    show ¬ 64 + k - 8 - 8 - 8 - 8 - 16 < 16 by omega, show 64 + k - 8 - 8 - 8 - 8 - 16 - 16 = k by omega]

@[simp] theorem fieldA_packWord : fieldA (packWord op a b r g bl aux) = a := by
  refine BitVec.eq_of_getLsbD_eq fun k hk => ?_
  simp only [fieldA, packWord, BitVec.getLsbD_extractLsb', BitVec.getLsbD_append]
  simp [hk, show ¬ 48 + k < 8 by omega, show ¬ 48 + k - 8 < 8 by omega, show ¬ 48 + k - 8 - 8 < 8 by omega,
    show ¬ 48 + k - 8 - 8 - 8 < 8 by omega, show ¬ 48 + k - 8 - 8 - 8 - 8 < 16 by omega,
    show 48 + k - 8 - 8 - 8 - 8 - 16 = k by omega]

@[simp] theorem fieldB_packWord : fieldB (packWord op a b r g bl aux) = b := by
  refine BitVec.eq_of_getLsbD_eq fun k hk => ?_
  simp only [fieldB, packWord, BitVec.getLsbD_extractLsb', BitVec.getLsbD_append]
  simp [hk, show ¬ 32 + k < 8 by omega, show ¬ 32 + k - 8 < 8 by omega, show ¬ 32 + k - 8 - 8 < 8 by omega,
    show ¬ 32 + k - 8 - 8 - 8 < 8 by omega, show 32 + k - 8 - 8 - 8 - 8 = k by omega]

@[simp] theorem fieldR_packWord : fieldR (packWord op a b r g bl aux) = r := by
  refine BitVec.eq_of_getLsbD_eq fun k hk => ?_
  simp only [fieldR, packWord, BitVec.getLsbD_extractLsb', BitVec.getLsbD_append]
  simp [hk, show ¬ 24 + k < 8 by omega, show ¬ 24 + k - 8 < 8 by omega, show ¬ 24 + k - 8 - 8 < 8 by omega,
    show 24 + k - 8 - 8 - 8 = k by omega]

@[simp] theorem fieldG_packWord : fieldG (packWord op a b r g bl aux) = g := by
  refine BitVec.eq_of_getLsbD_eq fun k hk => ?_
  simp only [fieldG, packWord, BitVec.getLsbD_extractLsb', BitVec.getLsbD_append]
  simp [hk, show ¬ 16 + k < 8 by omega, show ¬ 16 + k - 8 < 8 by omega, show 16 + k - 8 - 8 = k by omega]

@[simp] theorem fieldBl_packWord : fieldBl (packWord op a b r g bl aux) = bl := by
  refine BitVec.eq_of_getLsbD_eq fun k hk => ?_
  simp only [fieldBl, packWord, BitVec.getLsbD_extractLsb', BitVec.getLsbD_append]
  simp [hk, show ¬ 8 + k < 8 by omega, show 8 + k - 8 = k by omega]

@[simp] theorem fieldAux_packWord : fieldAux (packWord op a b r g bl aux) = aux := by
  refine BitVec.eq_of_getLsbD_eq fun k hk => ?_
  simp only [fieldAux, packWord, BitVec.getLsbD_extractLsb', BitVec.getLsbD_append]
  simp [hk]

/-- A word is its seven fields, packed. -/
theorem packWord_fields (w : CmdWord) :
    packWord (fieldOp w) (fieldA w) (fieldB w) (fieldR w) (fieldG w) (fieldBl w) (fieldAux w) = w := by
  refine BitVec.eq_of_getLsbD_eq fun k hk => ?_
  simp only [packWord, fieldOp, fieldA, fieldB, fieldR, fieldG, fieldBl, fieldAux, BitVec.getLsbD_append,
    BitVec.getLsbD_extractLsb']
  have key : ∀ o m j : Nat, j < m → o + j = k → (decide (j < m) && w.getLsbD (o + j)) = w.getLsbD k := by
    rintro o m j hj rfl
    simp [hj]
  split_ifs <;> exact key _ _ _ (by omega) (by omega)

end Sys2Proof
end

