-- ==== Sys2Proof/Laws/Memory.lean ====
section
/-! SUPPORT. What the pixel memory's operations do: read after write, and that a write keeps the canonical form. -/

namespace Sys2Proof.Machine

/-- An index below every listed one reads as black. -/
theorem memRead_of_lt {m : PixMem} {i : Nat} (h : ∀ e ∈ m, i < e.1) : memRead m i = Pixel.black := by
  induction m with
  | nil => rfl
  | cons e m ih =>
    have he : i ≠ e.1 := Nat.ne_of_lt (h e (by simp))
    simp only [memRead, he, if_false]
    exact ih fun e' h' => h e' (by simp [h'])

/-- The canonical form of a list is that of its head and its tail. -/
theorem memory_wf_cons {e : Nat × Pixel} {m : PixMem} :
    Memory.wf (e :: m) ↔ (∀ f ∈ m, e.1 < f.1) ∧ e.2 ≠ Pixel.black ∧ Memory.wf m := by
  simp only [Memory.wf, List.pairwise_cons, List.forall_mem_cons]
  tauto

/-- Every index a write leaves listed was listed before or is the one written. -/
theorem mem_memWrite {m : PixMem} {i : Nat} {p : Pixel} {e : Nat × Pixel} (h : e ∈ memWrite m i p) :
    e ∈ m ∨ e.1 = i := by
  induction m with
  | nil =>
    simp only [memWrite, memCons] at h
    split at h <;> simp_all
  | cons f m ih =>
    simp only [memWrite, memCons] at h
    split at h
    · split at h
      · exact .inl h
      · rcases List.mem_cons.1 h with rfl | h
        · exact .inr rfl
        · exact .inl h
    · split at h
      · split at h
        · exact .inl (List.mem_cons_of_mem _ h)
        · rcases List.mem_cons.1 h with rfl | h
          · exact .inr rfl
          · exact .inl (List.mem_cons_of_mem _ h)
      · rcases List.mem_cons.1 h with rfl | h
        · exact .inl (by simp)
        · rcases ih h with h | h
          · exact .inl (List.mem_cons_of_mem _ h)
          · exact .inr h

/-- A write leaves every other word alone (20_memory R47, R59). -/
theorem memRead_memWrite_of_ne {i j : Nat} (h : j ≠ i) (m : PixMem) (p : Pixel) :
    memRead (memWrite m i p) j = memRead m j := by
  induction m with
  | nil =>
    simp only [memWrite, memCons]
    split <;> simp [memRead, h]
  | cons e m ih =>
    simp only [memWrite, memCons]
    split
    · split <;> simp [memRead, h]
    · split
      · rename_i _ hi
        subst hi
        split <;> simp [memRead, h]
      · simp only [memRead, ih]

/-- A read after a write to the same word gives the value written (20_memory R54). -/
theorem memRead_memWrite_self {m : PixMem} (h : Memory.wf m) (i : Nat) (p : Pixel) :
    memRead (memWrite m i p) i = p := by
  induction m with
  | nil =>
    simp only [memWrite, memCons]
    split <;> simp_all [memRead]
  | cons e m ih =>
    obtain ⟨hlt, -, hm⟩ := memory_wf_cons.1 h
    simp only [memWrite, memCons]
    split
    · rename_i hi
      split
      · rename_i hp
        rw [hp]
        refine memRead_of_lt ?_
        intro f hf
        rcases List.mem_cons.1 hf with rfl | hf
        · exact hi
        · exact Nat.lt_trans hi (hlt f hf)
      · simp [memRead]
    · split
      · rename_i _ hi
        split
        · rename_i hp
          rw [hp, hi]
          exact memRead_of_lt hlt
        · simp [memRead]
      · rename_i hi
        simp only [memRead, hi, if_false, ih hm]

/-- A write keeps the canonical form. -/
theorem memory_wf_memWrite {m : PixMem} (h : Memory.wf m) (i : Nat) (p : Pixel) : Memory.wf (memWrite m i p) := by
  induction m with
  | nil =>
    simp only [memWrite, memCons]
    split
    · exact h
    · rename_i hp
      exact memory_wf_cons.2 ⟨by simp, hp, h⟩
  | cons e m ih =>
    obtain ⟨hlt, he, hm⟩ := memory_wf_cons.1 h
    simp only [memWrite, memCons]
    split
    · rename_i hi
      split
      · exact h
      · rename_i hp
        refine memory_wf_cons.2 ⟨?_, hp, h⟩
        intro f hf
        rcases List.mem_cons.1 hf with rfl | hf
        · exact hi
        · exact Nat.lt_trans hi (hlt f hf)
    · split
      · rename_i _ hi
        split
        · exact hm
        · rename_i hp
          refine memory_wf_cons.2 ⟨?_, hp, hm⟩
          intro f hf
          exact hi ▸ hlt f hf
      · refine memory_wf_cons.2 ⟨?_, he, ih hm⟩
        intro f hf
        rcases mem_memWrite hf with hf | hf
        · exact hlt f hf
        · omega

/-- The memory `NEW` creates is canonical and black everywhere (40_construct R80). -/
theorem memory_wf_memClear : Memory.wf memClear := ⟨List.Pairwise.nil, by simp [memClear]⟩

@[simp] theorem memRead_memClear (i : Nat) : memRead memClear i = Pixel.black := rfl

end Sys2Proof.Machine
end

