-- ==== Sys2Proof/Laws/State.lean ====
section
/-! SUPPORT. One lemma per field per named update of State, each true by rfl, so that no proof unfolds a record update. -/

namespace Sys2Proof.Machine

variable (s : State)

/-! ### setCfgErr -/

@[simp] theorem setCfgErr_phase : (setCfgErr s).phase = s.phase := rfl
@[simp] theorem setCfgErr_cfg : (setCfgErr s).cfg = s.cfg := rfl
@[simp] theorem setCfgErr_pix : (setCfgErr s).pix = s.pix := rfl
@[simp] theorem setCfgErr_rd : (setCfgErr s).rd = s.rd := rfl
@[simp] theorem setCfgErr_rdWritten : (setCfgErr s).rdWritten = s.rdWritten := rfl
@[simp] theorem setCfgErr_rn : (setCfgErr s).rn = s.rn := rfl
@[simp] theorem setCfgErr_rnWritten : (setCfgErr s).rnWritten = s.rnWritten := rfl
@[simp] theorem setCfgErr_busy : (setCfgErr s).busy = s.busy := rfl
@[simp] theorem setCfgErr_cfgErr : (setCfgErr s).cfgErr = true := rfl
@[simp] theorem setCfgErr_cursor : (setCfgErr s).cursor = s.cursor := rfl
@[simp] theorem setCfgErr_pwm5 : (setCfgErr s).pwm5 = s.pwm5 := rfl
@[simp] theorem setCfgErr_pwm4 : (setCfgErr s).pwm4 = s.pwm4 := rfl
@[simp] theorem setCfgErr_cmd : (setCfgErr s).cmd = s.cmd := rfl
@[simp] theorem setCfgErr_frameSent : (setCfgErr s).frameSent = s.frameSent := rfl
@[simp] theorem setCfgErr_link : (setCfgErr s).link = s.link := rfl
@[simp] theorem setCfgErr_inputs : (setCfgErr s).inputs = s.inputs := rfl
@[simp] theorem setCfgErr_trace : (setCfgErr s).trace = s.trace := rfl
@[simp] theorem setCfgErr_pastRuns : (setCfgErr s).pastRuns = s.pastRuns := rfl
@[simp] theorem setCfgErr_draws : (setCfgErr s).draws = s.draws := rfl

/-! ### setReady -/

@[simp] theorem setReady_phase : (setReady s).phase = .ready := rfl
@[simp] theorem setReady_cfg : (setReady s).cfg = s.cfg := rfl
@[simp] theorem setReady_pix : (setReady s).pix = s.pix := rfl
@[simp] theorem setReady_rd : (setReady s).rd = s.rd := rfl
@[simp] theorem setReady_rdWritten : (setReady s).rdWritten = s.rdWritten := rfl
@[simp] theorem setReady_rn : (setReady s).rn = s.rn := rfl
@[simp] theorem setReady_rnWritten : (setReady s).rnWritten = s.rnWritten := rfl
@[simp] theorem setReady_busy : (setReady s).busy = s.busy := rfl
@[simp] theorem setReady_cfgErr : (setReady s).cfgErr = false := rfl
@[simp] theorem setReady_cursor : (setReady s).cursor = s.cursor := rfl
@[simp] theorem setReady_pwm5 : (setReady s).pwm5 = s.pwm5 := rfl
@[simp] theorem setReady_pwm4 : (setReady s).pwm4 = s.pwm4 := rfl
@[simp] theorem setReady_cmd : (setReady s).cmd = s.cmd := rfl
@[simp] theorem setReady_frameSent : (setReady s).frameSent = s.frameSent := rfl
@[simp] theorem setReady_link : (setReady s).link = s.link := rfl
@[simp] theorem setReady_inputs : (setReady s).inputs = s.inputs := rfl
@[simp] theorem setReady_trace : (setReady s).trace = s.trace := rfl
@[simp] theorem setReady_pastRuns : (setReady s).pastRuns = s.pastRuns := rfl
@[simp] theorem setReady_draws : (setReady s).draws = s.draws := rfl

/-! ### setBusy -/

@[simp] theorem setBusy_phase : (setBusy s).phase = s.phase := rfl
@[simp] theorem setBusy_cfg : (setBusy s).cfg = s.cfg := rfl
@[simp] theorem setBusy_pix : (setBusy s).pix = s.pix := rfl
@[simp] theorem setBusy_rd : (setBusy s).rd = s.rd := rfl
@[simp] theorem setBusy_rdWritten : (setBusy s).rdWritten = s.rdWritten := rfl
@[simp] theorem setBusy_rn : (setBusy s).rn = s.rn := rfl
@[simp] theorem setBusy_rnWritten : (setBusy s).rnWritten = s.rnWritten := rfl
@[simp] theorem setBusy_busy : (setBusy s).busy = true := rfl
@[simp] theorem setBusy_cfgErr : (setBusy s).cfgErr = s.cfgErr := rfl
@[simp] theorem setBusy_cursor : (setBusy s).cursor = s.cursor := rfl
@[simp] theorem setBusy_pwm5 : (setBusy s).pwm5 = s.pwm5 := rfl
@[simp] theorem setBusy_pwm4 : (setBusy s).pwm4 = s.pwm4 := rfl
@[simp] theorem setBusy_cmd : (setBusy s).cmd = s.cmd := rfl
@[simp] theorem setBusy_frameSent : (setBusy s).frameSent = s.frameSent := rfl
@[simp] theorem setBusy_link : (setBusy s).link = s.link := rfl
@[simp] theorem setBusy_inputs : (setBusy s).inputs = s.inputs := rfl
@[simp] theorem setBusy_trace : (setBusy s).trace = s.trace := rfl
@[simp] theorem setBusy_pastRuns : (setBusy s).pastRuns = s.pastRuns := rfl
@[simp] theorem setBusy_draws : (setBusy s).draws = s.draws := rfl

/-! ### clearBusy -/

@[simp] theorem clearBusy_phase : (clearBusy s).phase = s.phase := rfl
@[simp] theorem clearBusy_cfg : (clearBusy s).cfg = s.cfg := rfl
@[simp] theorem clearBusy_pix : (clearBusy s).pix = s.pix := rfl
@[simp] theorem clearBusy_rd : (clearBusy s).rd = s.rd := rfl
@[simp] theorem clearBusy_rdWritten : (clearBusy s).rdWritten = s.rdWritten := rfl
@[simp] theorem clearBusy_rn : (clearBusy s).rn = s.rn := rfl
@[simp] theorem clearBusy_rnWritten : (clearBusy s).rnWritten = s.rnWritten := rfl
@[simp] theorem clearBusy_busy : (clearBusy s).busy = false := rfl
@[simp] theorem clearBusy_cfgErr : (clearBusy s).cfgErr = s.cfgErr := rfl
@[simp] theorem clearBusy_cursor : (clearBusy s).cursor = s.cursor := rfl
@[simp] theorem clearBusy_pwm5 : (clearBusy s).pwm5 = s.pwm5 := rfl
@[simp] theorem clearBusy_pwm4 : (clearBusy s).pwm4 = s.pwm4 := rfl
@[simp] theorem clearBusy_cmd : (clearBusy s).cmd = s.cmd := rfl
@[simp] theorem clearBusy_frameSent : (clearBusy s).frameSent = s.frameSent := rfl
@[simp] theorem clearBusy_link : (clearBusy s).link = s.link := rfl
@[simp] theorem clearBusy_inputs : (clearBusy s).inputs = s.inputs := rfl
@[simp] theorem clearBusy_trace : (clearBusy s).trace = s.trace := rfl
@[simp] theorem clearBusy_pastRuns : (clearBusy s).pastRuns = s.pastRuns := rfl
@[simp] theorem clearBusy_draws : (clearBusy s).draws = s.draws := rfl

/-! ### emit -/

@[simp] theorem emit_phase (es : List Event) : (emit es s).phase = s.phase := rfl
@[simp] theorem emit_cfg (es : List Event) : (emit es s).cfg = s.cfg := rfl
@[simp] theorem emit_pix (es : List Event) : (emit es s).pix = s.pix := rfl
@[simp] theorem emit_rd (es : List Event) : (emit es s).rd = s.rd := rfl
@[simp] theorem emit_rdWritten (es : List Event) : (emit es s).rdWritten = s.rdWritten := rfl
@[simp] theorem emit_rn (es : List Event) : (emit es s).rn = s.rn := rfl
@[simp] theorem emit_rnWritten (es : List Event) : (emit es s).rnWritten = s.rnWritten := rfl
@[simp] theorem emit_busy (es : List Event) : (emit es s).busy = s.busy := rfl
@[simp] theorem emit_cfgErr (es : List Event) : (emit es s).cfgErr = s.cfgErr := rfl
@[simp] theorem emit_cursor (es : List Event) : (emit es s).cursor = s.cursor := rfl
@[simp] theorem emit_pwm5 (es : List Event) : (emit es s).pwm5 = s.pwm5 := rfl
@[simp] theorem emit_pwm4 (es : List Event) : (emit es s).pwm4 = s.pwm4 := rfl
@[simp] theorem emit_cmd (es : List Event) : (emit es s).cmd = s.cmd := rfl
@[simp] theorem emit_frameSent (es : List Event) : (emit es s).frameSent = s.frameSent := rfl
@[simp] theorem emit_link (es : List Event) : (emit es s).link = s.link := rfl
@[simp] theorem emit_inputs (es : List Event) : (emit es s).inputs = s.inputs := rfl
@[simp] theorem emit_trace (es : List Event) : (emit es s).trace = s.trace ++ es := rfl
@[simp] theorem emit_pastRuns (es : List Event) : (emit es s).pastRuns = s.pastRuns := rfl
@[simp] theorem emit_draws (es : List Event) : (emit es s).draws = s.draws := rfl

/-! ### construct -/

@[simp] theorem construct_phase (g : Geometry) : (construct g s).phase = .ready := rfl
@[simp] theorem construct_cfg (g : Geometry) : (construct g s).cfg = g := rfl
@[simp] theorem construct_pix (g : Geometry) : (construct g s).pix = [] := rfl
@[simp] theorem construct_rd (g : Geometry) : (construct g s).rd = s.rd := rfl
@[simp] theorem construct_rdWritten (g : Geometry) : (construct g s).rdWritten = s.rdWritten := rfl
@[simp] theorem construct_rn (g : Geometry) : (construct g s).rn = s.rn := rfl
@[simp] theorem construct_rnWritten (g : Geometry) : (construct g s).rnWritten = s.rnWritten := rfl
@[simp] theorem construct_busy (g : Geometry) : (construct g s).busy = s.busy := rfl
@[simp] theorem construct_cfgErr (g : Geometry) : (construct g s).cfgErr = false := rfl
@[simp] theorem construct_cursor (g : Geometry) : (construct g s).cursor = s.cursor := rfl
@[simp] theorem construct_pwm5 (g : Geometry) : (construct g s).pwm5 = s.pwm5 := rfl
@[simp] theorem construct_pwm4 (g : Geometry) : (construct g s).pwm4 = s.pwm4 := rfl
@[simp] theorem construct_cmd (g : Geometry) : (construct g s).cmd = s.cmd := rfl
@[simp] theorem construct_frameSent (g : Geometry) : (construct g s).frameSent = s.frameSent := rfl
@[simp] theorem construct_link (g : Geometry) : (construct g s).link = s.link := rfl
@[simp] theorem construct_inputs (g : Geometry) : (construct g s).inputs = s.inputs := rfl
@[simp] theorem construct_trace (g : Geometry) : (construct g s).trace = s.trace := rfl
@[simp] theorem construct_pastRuns (g : Geometry) : (construct g s).pastRuns = s.pastRuns := rfl
@[simp] theorem construct_draws (g : Geometry) : (construct g s).draws = s.draws := rfl

/-! ### loadCount -/

@[simp] theorem loadCount_phase : (loadCount s).phase = s.phase := rfl
@[simp] theorem loadCount_cfg : (loadCount s).cfg = s.cfg := rfl
@[simp] theorem loadCount_pix : (loadCount s).pix = s.pix := rfl
@[simp] theorem loadCount_rd : (loadCount s).rd = s.rd := rfl
@[simp] theorem loadCount_rdWritten : (loadCount s).rdWritten = s.rdWritten := rfl
@[simp] theorem loadCount_rn : (loadCount s).rn = s.cfg.numLeds := rfl
@[simp] theorem loadCount_rnWritten : (loadCount s).rnWritten = true := rfl
@[simp] theorem loadCount_busy : (loadCount s).busy = s.busy := rfl
@[simp] theorem loadCount_cfgErr : (loadCount s).cfgErr = s.cfgErr := rfl
@[simp] theorem loadCount_cursor : (loadCount s).cursor = s.cursor := rfl
@[simp] theorem loadCount_pwm5 : (loadCount s).pwm5 = s.pwm5 := rfl
@[simp] theorem loadCount_pwm4 : (loadCount s).pwm4 = s.pwm4 := rfl
@[simp] theorem loadCount_cmd : (loadCount s).cmd = s.cmd := rfl
@[simp] theorem loadCount_frameSent : (loadCount s).frameSent = s.frameSent := rfl
@[simp] theorem loadCount_link : (loadCount s).link = s.link := rfl
@[simp] theorem loadCount_inputs : (loadCount s).inputs = s.inputs := rfl
@[simp] theorem loadCount_trace : (loadCount s).trace = s.trace := rfl
@[simp] theorem loadCount_pastRuns : (loadCount s).pastRuns = s.pastRuns := rfl
@[simp] theorem loadCount_draws : (loadCount s).draws = s.draws := rfl

/-! ### resetBlock -/

@[simp] theorem resetBlock_phase : (resetBlock s).phase = .empty := rfl
@[simp] theorem resetBlock_cfg : (resetBlock s).cfg = ⟨0#16, 0#16, false, false⟩ := rfl
@[simp] theorem resetBlock_pix : (resetBlock s).pix = [] := rfl
@[simp] theorem resetBlock_rd : (resetBlock s).rd = ⟨0#8, 0#8, 0#8⟩ := rfl
@[simp] theorem resetBlock_rdWritten : (resetBlock s).rdWritten = false := rfl
@[simp] theorem resetBlock_rn : (resetBlock s).rn = 0#16 := rfl
@[simp] theorem resetBlock_rnWritten : (resetBlock s).rnWritten = false := rfl
@[simp] theorem resetBlock_busy : (resetBlock s).busy = false := rfl
@[simp] theorem resetBlock_cfgErr : (resetBlock s).cfgErr = false := rfl
@[simp] theorem resetBlock_cursor : (resetBlock s).cursor = ⟨0#16, .green, 0#3, 0#8⟩ := rfl
@[simp] theorem resetBlock_pwm5 : (resetBlock s).pwm5 = s.pwm5 := rfl
@[simp] theorem resetBlock_pwm4 : (resetBlock s).pwm4 = s.pwm4 := rfl
@[simp] theorem resetBlock_cmd : (resetBlock s).cmd = none := rfl
@[simp] theorem resetBlock_frameSent : (resetBlock s).frameSent = false := rfl
@[simp] theorem resetBlock_link : (resetBlock s).link = s.link := rfl
@[simp] theorem resetBlock_inputs : (resetBlock s).inputs = s.inputs := rfl
@[simp] theorem resetBlock_trace : (resetBlock s).trace = [] := rfl
@[simp] theorem resetBlock_pastRuns : (resetBlock s).pastRuns = s.pastRuns ++ [s.trace ++ cutTail s] := rfl
@[simp] theorem resetBlock_draws : (resetBlock s).draws = s.draws + 1 := rfl

/-! ### storeColour -/

@[simp] theorem storeColour_phase (x y : Index) (c : Rgb) : (storeColour x y c s).phase = s.phase := by
  unfold storeColour; split <;> rfl
@[simp] theorem storeColour_cfg (x y : Index) (c : Rgb) : (storeColour x y c s).cfg = s.cfg := by
  unfold storeColour; split <;> rfl
@[simp] theorem storeColour_rd (x y : Index) (c : Rgb) : (storeColour x y c s).rd = s.rd := by
  unfold storeColour; split <;> rfl
@[simp] theorem storeColour_rdWritten (x y : Index) (c : Rgb) : (storeColour x y c s).rdWritten = s.rdWritten := by
  unfold storeColour; split <;> rfl
@[simp] theorem storeColour_rn (x y : Index) (c : Rgb) : (storeColour x y c s).rn = s.rn := by
  unfold storeColour; split <;> rfl
@[simp] theorem storeColour_rnWritten (x y : Index) (c : Rgb) : (storeColour x y c s).rnWritten = s.rnWritten := by
  unfold storeColour; split <;> rfl
@[simp] theorem storeColour_busy (x y : Index) (c : Rgb) : (storeColour x y c s).busy = s.busy := by
  unfold storeColour; split <;> rfl
@[simp] theorem storeColour_cfgErr (x y : Index) (c : Rgb) : (storeColour x y c s).cfgErr = s.cfgErr := by
  unfold storeColour; split <;> rfl
@[simp] theorem storeColour_cursor (x y : Index) (c : Rgb) : (storeColour x y c s).cursor = s.cursor := by
  unfold storeColour; split <;> rfl
@[simp] theorem storeColour_pwm5 (x y : Index) (c : Rgb) : (storeColour x y c s).pwm5 = s.pwm5 := by
  unfold storeColour; split <;> rfl
@[simp] theorem storeColour_pwm4 (x y : Index) (c : Rgb) : (storeColour x y c s).pwm4 = s.pwm4 := by
  unfold storeColour; split <;> rfl
@[simp] theorem storeColour_cmd (x y : Index) (c : Rgb) : (storeColour x y c s).cmd = s.cmd := by
  unfold storeColour; split <;> rfl
@[simp] theorem storeColour_frameSent (x y : Index) (c : Rgb) : (storeColour x y c s).frameSent = s.frameSent := by
  unfold storeColour; split <;> rfl
@[simp] theorem storeColour_link (x y : Index) (c : Rgb) : (storeColour x y c s).link = s.link := by
  unfold storeColour; split <;> rfl
@[simp] theorem storeColour_inputs (x y : Index) (c : Rgb) : (storeColour x y c s).inputs = s.inputs := by
  unfold storeColour; split <;> rfl
@[simp] theorem storeColour_trace (x y : Index) (c : Rgb) : (storeColour x y c s).trace = s.trace := by
  unfold storeColour; split <;> rfl
@[simp] theorem storeColour_pastRuns (x y : Index) (c : Rgb) : (storeColour x y c s).pastRuns = s.pastRuns := by
  unfold storeColour; split <;> rfl
@[simp] theorem storeColour_draws (x y : Index) (c : Rgb) : (storeColour x y c s).draws = s.draws := by
  unfold storeColour; split <;> rfl

/-! ### loadColour -/

@[simp] theorem loadColour_phase (x y : Index) : (loadColour x y s).phase = s.phase := by
  unfold loadColour; split <;> rfl
@[simp] theorem loadColour_cfg (x y : Index) : (loadColour x y s).cfg = s.cfg := by
  unfold loadColour; split <;> rfl
@[simp] theorem loadColour_pix (x y : Index) : (loadColour x y s).pix = s.pix := by
  unfold loadColour; split <;> rfl
@[simp] theorem loadColour_rn (x y : Index) : (loadColour x y s).rn = s.rn := by
  unfold loadColour; split <;> rfl
@[simp] theorem loadColour_rnWritten (x y : Index) : (loadColour x y s).rnWritten = s.rnWritten := by
  unfold loadColour; split <;> rfl
@[simp] theorem loadColour_busy (x y : Index) : (loadColour x y s).busy = s.busy := by
  unfold loadColour; split <;> rfl
@[simp] theorem loadColour_cfgErr (x y : Index) : (loadColour x y s).cfgErr = s.cfgErr := by
  unfold loadColour; split <;> rfl
@[simp] theorem loadColour_cursor (x y : Index) : (loadColour x y s).cursor = s.cursor := by
  unfold loadColour; split <;> rfl
@[simp] theorem loadColour_pwm5 (x y : Index) : (loadColour x y s).pwm5 = s.pwm5 := by
  unfold loadColour; split <;> rfl
@[simp] theorem loadColour_pwm4 (x y : Index) : (loadColour x y s).pwm4 = s.pwm4 := by
  unfold loadColour; split <;> rfl
@[simp] theorem loadColour_cmd (x y : Index) : (loadColour x y s).cmd = s.cmd := by
  unfold loadColour; split <;> rfl
@[simp] theorem loadColour_frameSent (x y : Index) : (loadColour x y s).frameSent = s.frameSent := by
  unfold loadColour; split <;> rfl
@[simp] theorem loadColour_link (x y : Index) : (loadColour x y s).link = s.link := by
  unfold loadColour; split <;> rfl
@[simp] theorem loadColour_inputs (x y : Index) : (loadColour x y s).inputs = s.inputs := by
  unfold loadColour; split <;> rfl
@[simp] theorem loadColour_trace (x y : Index) : (loadColour x y s).trace = s.trace := by
  unfold loadColour; split <;> rfl
@[simp] theorem loadColour_pastRuns (x y : Index) : (loadColour x y s).pastRuns = s.pastRuns := by
  unfold loadColour; split <;> rfl
@[simp] theorem loadColour_draws (x y : Index) : (loadColour x y s).draws = s.draws := by
  unfold loadColour; split <;> rfl

/-! ### openFrame -/

@[simp] theorem openFrame_phase : (openFrame s).phase = s.phase := rfl
@[simp] theorem openFrame_cfg : (openFrame s).cfg = s.cfg := rfl
@[simp] theorem openFrame_pix : (openFrame s).pix = s.pix := rfl
@[simp] theorem openFrame_rd : (openFrame s).rd = s.rd := rfl
@[simp] theorem openFrame_rdWritten : (openFrame s).rdWritten = s.rdWritten := rfl
@[simp] theorem openFrame_rn : (openFrame s).rn = s.rn := rfl
@[simp] theorem openFrame_rnWritten : (openFrame s).rnWritten = s.rnWritten := rfl
@[simp] theorem openFrame_busy : (openFrame s).busy = true := rfl
@[simp] theorem openFrame_cfgErr : (openFrame s).cfgErr = s.cfgErr := rfl
@[simp] theorem openFrame_cursor : (openFrame s).cursor = s.cursor := rfl
@[simp] theorem openFrame_pwm5 : (openFrame s).pwm5 = s.pwm5 := rfl
@[simp] theorem openFrame_pwm4 : (openFrame s).pwm4 = s.pwm4 := rfl
@[simp] theorem openFrame_cmd : (openFrame s).cmd = s.cmd := rfl
@[simp] theorem openFrame_frameSent : (openFrame s).frameSent = s.frameSent := rfl
@[simp] theorem openFrame_link : (openFrame s).link = s.link := rfl
@[simp] theorem openFrame_inputs : (openFrame s).inputs = s.inputs := rfl
@[simp] theorem openFrame_trace : (openFrame s).trace = s.trace ++ [.csEnter] := rfl
@[simp] theorem openFrame_pastRuns : (openFrame s).pastRuns = s.pastRuns := rfl
@[simp] theorem openFrame_draws : (openFrame s).draws = s.draws := rfl

/-! ### closeFrame -/

@[simp] theorem closeFrame_phase : (closeFrame s).phase = s.phase := rfl
@[simp] theorem closeFrame_cfg : (closeFrame s).cfg = s.cfg := rfl
@[simp] theorem closeFrame_pix : (closeFrame s).pix = s.pix := rfl
@[simp] theorem closeFrame_rd : (closeFrame s).rd = s.rd := rfl
@[simp] theorem closeFrame_rdWritten : (closeFrame s).rdWritten = s.rdWritten := rfl
@[simp] theorem closeFrame_rn : (closeFrame s).rn = s.rn := rfl
@[simp] theorem closeFrame_rnWritten : (closeFrame s).rnWritten = s.rnWritten := rfl
@[simp] theorem closeFrame_busy : (closeFrame s).busy = false := rfl
@[simp] theorem closeFrame_cfgErr : (closeFrame s).cfgErr = s.cfgErr := rfl
@[simp] theorem closeFrame_pwm5 : (closeFrame s).pwm5 = s.pwm5 := rfl
@[simp] theorem closeFrame_pwm4 : (closeFrame s).pwm4 = s.pwm4 := rfl
@[simp] theorem closeFrame_cmd : (closeFrame s).cmd = s.cmd := rfl
@[simp] theorem closeFrame_frameSent : (closeFrame s).frameSent = false := rfl
@[simp] theorem closeFrame_link : (closeFrame s).link = s.link := rfl
@[simp] theorem closeFrame_inputs : (closeFrame s).inputs = s.inputs := rfl
@[simp] theorem closeFrame_trace : (closeFrame s).trace = s.trace ++ [.csExit] := rfl
@[simp] theorem closeFrame_pastRuns : (closeFrame s).pastRuns = s.pastRuns := rfl

/-! ### sendFrame -/

@[simp] theorem sendFrame_phase : (sendFrame s).phase = s.phase := rfl
@[simp] theorem sendFrame_cfg : (sendFrame s).cfg = s.cfg := rfl
@[simp] theorem sendFrame_pix : (sendFrame s).pix = s.pix := rfl
@[simp] theorem sendFrame_rd : (sendFrame s).rd = s.rd := rfl
@[simp] theorem sendFrame_rdWritten : (sendFrame s).rdWritten = s.rdWritten := rfl
@[simp] theorem sendFrame_rn : (sendFrame s).rn = s.rn := rfl
@[simp] theorem sendFrame_rnWritten : (sendFrame s).rnWritten = s.rnWritten := rfl
@[simp] theorem sendFrame_busy : (sendFrame s).busy = false := rfl
@[simp] theorem sendFrame_cfgErr : (sendFrame s).cfgErr = s.cfgErr := rfl
@[simp] theorem sendFrame_pwm5 : (sendFrame s).pwm5 = s.pwm5 := rfl
@[simp] theorem sendFrame_pwm4 : (sendFrame s).pwm4 = s.pwm4 := rfl
@[simp] theorem sendFrame_cmd : (sendFrame s).cmd = s.cmd := rfl
@[simp] theorem sendFrame_frameSent : (sendFrame s).frameSent = false := rfl
@[simp] theorem sendFrame_link : (sendFrame s).link = s.link := rfl
@[simp] theorem sendFrame_inputs : (sendFrame s).inputs = s.inputs := rfl
@[simp] theorem sendFrame_pastRuns : (sendFrame s).pastRuns = s.pastRuns := rfl

/-! ### startFrame -/

@[simp] theorem startFrame_phase : (startFrame s).phase = s.phase := rfl
@[simp] theorem startFrame_cfg : (startFrame s).cfg = s.cfg := rfl
@[simp] theorem startFrame_pix : (startFrame s).pix = s.pix := rfl
@[simp] theorem startFrame_rd : (startFrame s).rd = s.rd := rfl
@[simp] theorem startFrame_rdWritten : (startFrame s).rdWritten = s.rdWritten := rfl
@[simp] theorem startFrame_rn : (startFrame s).rn = s.rn := rfl
@[simp] theorem startFrame_rnWritten : (startFrame s).rnWritten = s.rnWritten := rfl
@[simp] theorem startFrame_busy : (startFrame s).busy = true := rfl
@[simp] theorem startFrame_cfgErr : (startFrame s).cfgErr = s.cfgErr := rfl
@[simp] theorem startFrame_pwm5 : (startFrame s).pwm5 = s.pwm5 := rfl
@[simp] theorem startFrame_pwm4 : (startFrame s).pwm4 = s.pwm4 := rfl
@[simp] theorem startFrame_cmd : (startFrame s).cmd = s.cmd := rfl
@[simp] theorem startFrame_frameSent : (startFrame s).frameSent = false := rfl
@[simp] theorem startFrame_link : (startFrame s).link = s.link := rfl
@[simp] theorem startFrame_inputs : (startFrame s).inputs = s.inputs := rfl
@[simp] theorem startFrame_trace : (startFrame s).trace = s.trace ++ [.csEnter] := rfl
@[simp] theorem startFrame_pastRuns : (startFrame s).pastRuns = s.pastRuns := rfl
@[simp] theorem startFrame_draws : (startFrame s).draws = s.draws := rfl

/-! ### bitStep -/

@[simp] theorem bitStep_phase : (bitStep s).phase = s.phase := rfl
@[simp] theorem bitStep_cfg : (bitStep s).cfg = s.cfg := rfl
@[simp] theorem bitStep_pix : (bitStep s).pix = s.pix := rfl
@[simp] theorem bitStep_rd : (bitStep s).rd = s.rd := rfl
@[simp] theorem bitStep_rdWritten : (bitStep s).rdWritten = s.rdWritten := rfl
@[simp] theorem bitStep_rn : (bitStep s).rn = s.rn := rfl
@[simp] theorem bitStep_rnWritten : (bitStep s).rnWritten = s.rnWritten := rfl
@[simp] theorem bitStep_busy : (bitStep s).busy = s.busy := rfl
@[simp] theorem bitStep_cfgErr : (bitStep s).cfgErr = s.cfgErr := rfl
@[simp] theorem bitStep_pwm5 : (bitStep s).pwm5 = s.pwm5 := rfl
@[simp] theorem bitStep_pwm4 : (bitStep s).pwm4 = s.pwm4 := rfl
@[simp] theorem bitStep_cmd : (bitStep s).cmd = s.cmd := rfl
@[simp] theorem bitStep_frameSent : (bitStep s).frameSent = s.frameSent := rfl
@[simp] theorem bitStep_link : (bitStep s).link = linkTake s.link := rfl
@[simp] theorem bitStep_inputs : (bitStep s).inputs = s.inputs := rfl
@[simp] theorem bitStep_trace : (bitStep s).trace = s.trace ++ [.byte (sym (s.cursor.sr.getLsbD 7))] := rfl
@[simp] theorem bitStep_pastRuns : (bitStep s).pastRuns = s.pastRuns := rfl
@[simp] theorem bitStep_draws : (bitStep s).draws = s.draws := rfl

/-! ### advance -/

@[simp] theorem advance_phase : (advance s).phase = s.phase := by
  unfold advance; repeat' split
  all_goals rfl
@[simp] theorem advance_cfg : (advance s).cfg = s.cfg := by
  unfold advance; repeat' split
  all_goals rfl
@[simp] theorem advance_pix : (advance s).pix = s.pix := by
  unfold advance; repeat' split
  all_goals rfl
@[simp] theorem advance_rd : (advance s).rd = s.rd := by
  unfold advance; repeat' split
  all_goals rfl
@[simp] theorem advance_rdWritten : (advance s).rdWritten = s.rdWritten := by
  unfold advance; repeat' split
  all_goals rfl
@[simp] theorem advance_rn : (advance s).rn = s.rn := by
  unfold advance; repeat' split
  all_goals rfl
@[simp] theorem advance_rnWritten : (advance s).rnWritten = s.rnWritten := by
  unfold advance; repeat' split
  all_goals rfl
@[simp] theorem advance_busy : (advance s).busy = s.busy := by
  unfold advance; repeat' split
  all_goals rfl
@[simp] theorem advance_cfgErr : (advance s).cfgErr = s.cfgErr := by
  unfold advance; repeat' split
  all_goals rfl
@[simp] theorem advance_pwm5 : (advance s).pwm5 = s.pwm5 := by
  unfold advance; repeat' split
  all_goals rfl
@[simp] theorem advance_pwm4 : (advance s).pwm4 = s.pwm4 := by
  unfold advance; repeat' split
  all_goals rfl
@[simp] theorem advance_cmd : (advance s).cmd = s.cmd := by
  unfold advance; repeat' split
  all_goals rfl
@[simp] theorem advance_link : (advance s).link = s.link := by
  unfold advance; repeat' split
  all_goals rfl
@[simp] theorem advance_inputs : (advance s).inputs = s.inputs := by
  unfold advance; repeat' split
  all_goals rfl
@[simp] theorem advance_trace : (advance s).trace = s.trace := by
  unfold advance; repeat' split
  all_goals rfl
@[simp] theorem advance_pastRuns : (advance s).pastRuns = s.pastRuns := by
  unfold advance; repeat' split
  all_goals rfl
@[simp] theorem advance_draws : (advance s).draws = s.draws := by
  unfold advance; repeat' split
  all_goals rfl

end Sys2Proof.Machine
end

