-- ==== Sys2Proof/Laws/Ops.lean ====
section
/-! SUPPORT. What each shared operation can do, said once; the proofs cite these and unfold no operation. -/

namespace Sys2Proof.Machine

/-- A command but `NEW` answers a next state exactly in `READY` (30_encoding R73). -/
theorem whenReady_next {s t u : State} : whenReady s t = .next u ↔ s.phase = .ready ∧ t = u := by
  cases h : s.phase <;> simp [whenReady, h]

/-- In `READY` the command answers the state its effect gives. -/
theorem whenReady_of_ready {s : State} (h : s.phase = .ready) (t : State) : whenReady s t = .next t := by
  simp [whenReady, h]

/-- In `EMPTY` it is refused. -/
theorem whenReady_of_empty {s : State} (h : s.phase = .empty) (t : State) : whenReady s t = .refused .noBuffer := by
  simp [whenReady, h]

/-- `whenReady` never faults. -/
theorem whenReady_ne_fault {s t : State} {f : Fault} : whenReady s t ≠ .fault f := by
  cases h : s.phase <;> simp [whenReady, h]

/-- A geometry is degenerate exactly in the three cases of 40_construct R81. -/
theorem degenerate_iff (n l : Index) : degenerate n l = true ↔ n.toNat = 0 ∨ l.toNat = 0 ∨ n.toNat < l.toNat := by
  simp [degenerate, BitVec.lt_def, ← BitVec.toNat_inj, or_assoc]

/-- Storing at an invalid address changes nothing (60_exceptions R152). -/
theorem storeColour_of_invalid {s : State} {x y : Index} (h : pixAddr s.cfg x y = none) (c : Rgb) :
    storeColour x y c s = s := by
  simp [storeColour, h]

/-- Storing at a valid address is one write of the truncated colour (43_pixel_write R113). -/
theorem storeColour_of_valid {s : State} {x y : Index} {i : Nat} (h : pixAddr s.cfg x y = some i) (c : Rgb) :
    storeColour x y c s = { s with pix := memWrite s.pix i (truncPixel c) } := by
  simp [storeColour, h]

/-- Storing changes the pixel memory only. -/
theorem storeColour_eq (x y : Index) (c : Rgb) (s : State) :
    storeColour x y c s = { s with pix := (storeColour x y c s).pix } := by
  cases h : pixAddr s.cfg x y <;> simp [storeColour, h]

/-- Loading from an invalid address changes nothing (44_pixel_read R125). -/
theorem loadColour_of_invalid {s : State} {x y : Index} (h : pixAddr s.cfg x y = none) : loadColour x y s = s := by
  simp [loadColour, h]

/-- Loading from a valid address delivers the expanded pixel (44_pixel_read R125). -/
theorem loadColour_of_valid {s : State} {x y : Index} {i : Nat} (h : pixAddr s.cfg x y = some i) :
    loadColour x y s = { s with rd := expandPixel (memRead s.pix i), rdWritten := true } := by
  simp [loadColour, h]

/-- Loading changes `RD` only. -/
theorem loadColour_eq (x y : Index) (s : State) :
    loadColour x y s = { s with rd := (loadColour x y s).rd, rdWritten := (loadColour x y s).rdWritten } := by
  cases h : pixAddr s.cfg x y <;> simp [loadColour, h]

/-- What `PixAddr` answers (41_addressing R94). -/
theorem pixAddr_eq_some {cfg : Geometry} {x y : Index} {i : Nat} :
    pixAddr cfg x y = some i ↔
      x < cfg.ledsPerRow ∧ ledIndexFromXY cfg x y < cfg.numLeds.toNat ∧ ledIndexFromXY cfg x y = i := by
  simp only [pixAddr]
  split
  · rename_i h
    simp [BitVec.not_lt.2 h]
  · rename_i h
    split
    · rename_i h'
      simp [Nat.not_lt.2 h']
    · rename_i h'
      simp [BitVec.not_le.1 h, Nat.not_le.1 h']

/-- A valid address is an index of an existing pixel. -/
theorem lt_of_pixAddr {cfg : Geometry} {x y : Index} {i : Nat} (h : pixAddr cfg x y = some i) : i < cfg.numLeds.toNat := by
  obtain ⟨-, hlt, rfl⟩ := pixAddr_eq_some.1 h
  exact hlt

/-- A host read of `RD` goes on, unchanged, exactly where `RD` holds a value (10_state R25). -/
theorem hostReadRd_next {s t : State} : hostReadRd s = .next t ↔ s.rdWritten = true ∧ s = t := by
  cases h : s.rdWritten <;> simp [hostReadRd, h]

/-- A host read of `RN` goes on, unchanged, exactly where `RN` holds a value (10_state R26). -/
theorem hostReadRn_next {s t : State} : hostReadRn s = .next t ↔ s.rnWritten = true ∧ s = t := by
  cases h : s.rnWritten <;> simp [hostReadRn, h]

end Sys2Proof.Machine
end

