-- ==== Sys2Proof/Laws/Encoder.lean ====
section
/-! SUPPORT. The encoder's operations: lengths of the sequences on the wire, and what each operation changes. -/

namespace Sys2Proof.Machine

@[simp] theorem length_sym8 (d : Byte) : (sym8 d).length = 8 := rfl

/-- A pixel is green, red, blue on the wire (45_bitstream R135). -/
theorem pixelBytes_eq (rom : Vector Byte 32) (p : Pixel) :
    pixelBytes rom p = sym8 (duty rom p.green) ++ sym8 (duty rom p.red) ++ sym8 (duty rom p.blue) := by
  simp [pixelBytes, channelOrder, channelLevel]

@[simp] theorem length_pixelBytes (rom : Vector Byte 32) (p : Pixel) : (pixelBytes rom p).length = 24 := by
  simp [pixelBytes_eq]

/-- One pixel more, 24 bytes more, at the end of the frame (45_bitstream R136). -/
theorem frameBytes_succ (rom : Vector Byte 32) (m : PixMem) (n : Nat) :
    frameBytes rom m (n + 1) = frameBytes rom m n ++ pixelBytes rom (memRead m n) := by
  simp [frameBytes, List.range_succ]

/-- Starting a frame sets `BUSY` and emits `CsEnter`, and nothing else. -/
theorem openFrame_eq (s : State) : openFrame s = { s with busy := true, trace := s.trace ++ [.csEnter] } := rfl

/-- Ending a frame emits `CsExit`, clears `BUSY` and leaves the cursor unspecified, and nothing else. -/
theorem closeFrame_eq (s : State) :
    closeFrame s = { s with
      trace := s.trace ++ [.csExit], busy := false, frameSent := false,
      cursor := Config.freeCursor s.draws, draws := s.draws + 1 } := rfl

/-- The big step appends one whole frame and leaves everything but the cursor as it was. -/
theorem sendFrame_eq (s : State) :
    sendFrame s = { s with
      trace := s.trace ++ [.csEnter] ++ (frameBytes s.pwm5 s.pix s.cfg.numLeds.toNat).map .byte ++ [.csExit]
      busy := false, frameSent := false, cursor := Config.freeCursor s.draws, draws := s.draws + 1 } := rfl

/-- The start of a frame changes `BUSY`, the trace and the cursor (45_bitstream R142). -/
theorem startFrame_eq (s : State) :
    startFrame s = { s with
      busy := true, trace := s.trace ++ [.csEnter], frameSent := false
      cursor := ⟨0#16, .green, 0#3, channelLoad s 0#16 .green⟩ } := rfl

/-- An advance changes the cursor and `frameSent` only (45_bitstream R145). -/
theorem advance_eq (s : State) :
    advance s = { s with cursor := (advance s).cursor, frameSent := (advance s).frameSent } := by
  simp only [advance]
  split
  · rfl
  · split
    · rfl
    · split <;> rfl

/-- A bit step emits one symbol, shifts `SR` and hands the byte to the link (45_bitstream R144). -/
theorem bitStep_eq (s : State) :
    bitStep s = { s with
      trace := s.trace ++ [.byte (sym (s.cursor.sr.getLsbD 7))]
      cursor := { s.cursor with sr := s.cursor.sr <<< 1 }, link := linkTake s.link } := rfl

/-- What an encoder step can do: end a frame that is sent, or send one byte. -/
theorem encoderStep_cases (s : State) :
    (s.frameSent = true ∧ encoderStep s = closeFrame s) ∨
    (s.frameSent = false ∧ encoderStep s = advance (bitStep s)) := by
  cases h : s.frameSent <;> simp [encoderStep, h]

end Sys2Proof.Machine
end

