-- ==== Sys2Proof/Laws/PerInstr.lean ====
section
/-! SUPPORT. Facts about every command, one lemma per constructor (LAWS.json). -/

namespace Sys2Proof.Laws.OpcodeRow

/-- The encoded command matches its row of spec/opcode_table.json: masked with `0xFF0000000000000000` it is the row's
`match`, `OP << 64` (30_encoding R65). -/
def Statement (i : Instr) : Prop := encode i &&& 0xFF0000000000000000#72 = (opcode i).setWidth 72 <<< 64

/-- The mask keeps the opcode of a packed word and nothing else. -/
theorem packWord_and_mask (op : Byte) (a b : Index) (r g bl aux : Byte) :
    packWord op a b r g bl aux &&& 0xFF0000000000000000#72 = op.setWidth 72 <<< 64 := by
  rw [show (0xFF0000000000000000#72 : CmdWord) = (255#8).setWidth 72 <<< 64 by decide]
  refine BitVec.eq_of_getLsbD_eq fun k hk => ?_
  simp only [packWord, BitVec.getLsbD_and, BitVec.getLsbD_shiftLeft, BitVec.getLsbD_setWidth, BitVec.getLsbD_append]
  by_cases h : k < 64
  · simp [h]
  · have h8 : ∀ j < 8, (255#8).getLsbD j = true := by decide
    simp [h, hk, h8 (k - 64) (by omega), show ¬ k < 8 by omega, show ¬ k - 8 < 8 by omega, show ¬ k - 8 - 8 < 8 by omega,
      show ¬ k - 8 - 8 - 8 < 8 by omega, show ¬ k - 8 - 8 - 8 - 8 < 16 by omega,
      show ¬ k - 8 - 8 - 8 - 8 - 16 < 16 by omega, show k - 8 - 8 - 8 - 8 - 16 - 16 = k - 64 by omega, Bool.and_comm]

theorem new (n l : Index) (xr alt : Bool) : Statement (.new n l xr alt) := packWord_and_mask ..
theorem setxy (x y : Index) (r g b : Byte) : Statement (.setxy x y r g b) := packWord_and_mask ..
theorem setlin (k : Index) (r g b : Byte) : Statement (.setlin k r g b) := packWord_and_mask ..
theorem setsxy (x y : Index) (r g b f : Byte) : Statement (.setsxy x y r g b f) := packWord_and_mask ..
theorem setdxy (x y : Index) (r g b br : Byte) : Statement (.setdxy x y r g b br) := packWord_and_mask ..
theorem setd (k : Index) (r g b br : Byte) : Statement (.setd k r g b br) := packWord_and_mask ..
theorem getxy (x y : Index) : Statement (.getxy x y) := packWord_and_mask ..
theorem getlin (k : Index) : Statement (.getlin k) := packWord_and_mask ..
theorem getn : Statement .getn := packWord_and_mask ..
theorem showFrame : Statement .showFrame := packWord_and_mask ..

end Sys2Proof.Laws.OpcodeRow
end

