-- ==== Sys2Proof/Laws/Step.lean ====
section
/-! SUPPORT. Inversion lemmas: what `exec` and `step` can do when they answer a next state. Later proofs are case analyses
over these and unfold neither. -/

namespace Sys2Proof.Machine

/-- What a command can do when it answers a next state. -/
theorem exec_cases {i : Instr} {s t : State} (h : exec i s = .next t) :
    (∃ n l xr alt, i = .new n l xr alt ∧ s.phase = .empty ∧ degenerate n l = true ∧ t = raiseConfigError s) ∨
    (∃ n l xr alt, i = .new n l xr alt ∧ s.phase = .empty ∧ degenerate n l = false ∧ t = construct ⟨n, l, xr, alt⟩ s) ∨
    (isWrite i = true ∧ s.phase = .ready ∧ ∃ x y c, writeTarget s.cfg i = pixAddr s.cfg x y ∧ t = storeColour x y c s) ∨
    (isRead i = true ∧ s.phase = .ready ∧ ∃ x y, readTarget s.cfg i = pixAddr s.cfg x y ∧ t = loadColour x y s) ∨
    (i = .getn ∧ s.phase = .ready ∧ t = loadCount s) ∨
    (i = .showFrame ∧ s.phase = .ready ∧ s.link = .prompt ∧ t = sendFrame s) ∨
    (i = .showFrame ∧ s.phase = .ready ∧ s.link ≠ .prompt ∧ t = startFrame s) := by
  cases i with
  | new n l xr alt =>
    simp only [exec, execNew] at h
    cases hp : s.phase <;> simp only [hp] at h
    · cases hd : degenerate n l <;> simp only [hd, if_true, if_false, Bool.false_eq_true, Host.Outcome.next.injEq] at h
      · exact .inr (.inl ⟨n, l, xr, alt, rfl, rfl, hd, h.symm⟩)
      · exact .inl ⟨n, l, xr, alt, rfl, rfl, hd, h.symm⟩
    · cases h
  | setxy x y r g b =>
    obtain ⟨hp, rfl⟩ := whenReady_next.1 h
    exact .inr (.inr (.inl ⟨rfl, hp, x, y, _, rfl, rfl⟩))
  | setlin k r g b =>
    obtain ⟨hp, rfl⟩ := whenReady_next.1 h
    exact .inr (.inr (.inl ⟨rfl, hp, _, _, _, rfl, rfl⟩))
  | setsxy x y r g b f =>
    obtain ⟨hp, rfl⟩ := whenReady_next.1 h
    exact .inr (.inr (.inl ⟨rfl, hp, x, y, _, rfl, rfl⟩))
  | setdxy x y r g b br =>
    obtain ⟨hp, rfl⟩ := whenReady_next.1 h
    exact .inr (.inr (.inl ⟨rfl, hp, x, y, _, rfl, rfl⟩))
  | setd k r g b br =>
    obtain ⟨hp, rfl⟩ := whenReady_next.1 h
    exact .inr (.inr (.inl ⟨rfl, hp, _, _, _, rfl, rfl⟩))
  | getxy x y =>
    obtain ⟨hp, rfl⟩ := whenReady_next.1 h
    exact .inr (.inr (.inr (.inl ⟨rfl, hp, x, y, rfl, rfl⟩)))
  | getlin k =>
    obtain ⟨hp, rfl⟩ := whenReady_next.1 h
    exact .inr (.inr (.inr (.inl ⟨rfl, hp, _, _, rfl, rfl⟩)))
  | getn =>
    obtain ⟨hp, rfl⟩ := whenReady_next.1 h
    exact .inr (.inr (.inr (.inr (.inl ⟨rfl, hp, rfl⟩))))
  | showFrame =>
    obtain ⟨hp, rfl⟩ := whenReady_next.1 h
    cases hl : s.link <;> simp [hp]

/-- What an accepted word can do when it answers a next state. -/
theorem acceptWord_next {w : CmdWord} {s t : State} (h : acceptWord w s = .next t) :
    ∃ i, decode w = .ok i ∧ exec i s = .next t := by
  simp only [acceptWord] at h
  split at h
  · exact ⟨_, ‹_›, h⟩
  · cases h

/-- What an input but a reset can do when it answers a next state, outside a frame or inside one: `rest` are the inputs
after it. -/
inductive InputEffect (s t : State) : Prop where
  | wait (hi : s.inputs = []) (ht : t = s)
  | done (rest : List Input) (hi : s.inputs = .serialDone :: rest)
      (ht : t = { s with inputs := rest, link := linkDone s.link })
  | readRd (rest : List Input) (hi : s.inputs = .readRd :: rest) (hw : s.rdWritten = true) (ht : t = { s with inputs := rest })
  | readRn (rest : List Input) (hi : s.inputs = .readRn :: rest) (hw : s.rnWritten = true) (ht : t = { s with inputs := rest })
  | readStatus (rest : List Input) (hi : s.inputs = .readStatus :: rest) (ht : t = { s with inputs := rest })

/-- What a step can do when it answers a next state. -/
inductive StepEffect (s t : State) : Prop where
  /-- A reset is taken. -/
  | reset (rest : List Input) (hi : s.inputs = .reset :: rest) (ht : t = resetBlock { s with inputs := rest })
  /-- A word on the port is accepted. -/
  | port (hr : s.inputs.head? ≠ some .reset) (hb : s.busy = false) (w : CmdWord) (hc : s.cmd = some w) (i : Instr) (hd : decode w = .ok i)
      (he : exec i { s with cmd := none } = .next t)
  /-- A word the host presents now is accepted. -/
  | command (hb : s.busy = false) (hc : s.cmd = none) (w : CmdWord) (rest : List Input) (hi : s.inputs = .command w :: rest)
      (i : Instr) (hd : decode w = .ok i) (he : exec i { s with inputs := rest } = .next t)
  /-- The host sets up the link. -/
  | setup (hb : s.busy = false) (hc : s.cmd = none) (b : Bool) (rest : List Input) (hi : s.inputs = .linkSetup b :: rest)
      (ht : t = { s with inputs := rest, link := if b then .ready else .prompt })
  /-- Another input is taken outside a frame. -/
  | idle (hb : s.busy = false) (hc : s.cmd = none) (he : InputEffect s t)
  /-- The encoder makes a step. -/
  | encoder (hb : s.busy = true) (hl : s.link ≠ .waiting) (hr : s.inputs.head? ≠ some .reset) (ht : t = encoderStep s)
  /-- A word the host presents inside a frame waits on the port. -/
  | hold (hb : s.busy = true) (hl : s.link = .waiting) (hc : s.cmd = none) (w : CmdWord) (rest : List Input)
      (hi : s.inputs = .command w :: rest) (ht : t = { s with inputs := rest, cmd := some w })
  /-- Another input is taken inside a frame. -/
  | frame (hb : s.busy = true) (hl : s.link = .waiting) (he : InputEffect s t)

/-- What `idleStep` can do when it answers a next state. -/
theorem idleStep_effect {s t : State} (hb : s.busy = false) (hc : s.cmd = none) (h : idleStep s = .next t) :
    StepEffect s t := by
  simp only [idleStep] at h
  split at h <;> rename_i hi
  · exact .idle hb hc (.wait hi (by simpa using h.symm))
  · obtain ⟨i, hd, he⟩ := acceptWord_next h
    exact .command hb hc _ _ hi i hd he
  · exact .idle hb hc (.done _ hi (by simpa using h.symm))
  · exact .reset _ hi (by simpa [takeReset, hi] using h.symm)
  · obtain ⟨hw, ht⟩ := hostReadRd_next.1 h
    exact .idle hb hc (.readRd _ hi hw ht.symm)
  · obtain ⟨hw, ht⟩ := hostReadRn_next.1 h
    exact .idle hb hc (.readRn _ hi hw ht.symm)
  · exact .idle hb hc (.readStatus _ hi (by simpa [hostReadStatus] using h.symm))
  · exact .setup hb hc _ _ hi (by simpa using h.symm)

/-- What `frameWait` can do when it answers a next state. -/
theorem frameWait_effect {s t : State} (hb : s.busy = true) (hl : s.link = .waiting)
    (h : frameWait s = .next t) : StepEffect s t := by
  simp only [frameWait] at h
  split at h <;> rename_i hi
  · exact .frame hb hl (.wait hi (by simpa using h.symm))
  · split at h
    · rename_i hc
      exact .hold hb hl hc _ _ hi (by simpa using h.symm)
    · cases h
  · exact .frame hb hl (.done _ hi (by simpa using h.symm))
  · exact .reset _ hi (by simpa [takeReset, hi] using h.symm)
  · obtain ⟨hw, ht⟩ := hostReadRd_next.1 h
    exact .frame hb hl (.readRd _ hi hw ht.symm)
  · obtain ⟨hw, ht⟩ := hostReadRn_next.1 h
    exact .frame hb hl (.readRn _ hi hw ht.symm)
  · exact .frame hb hl (.readStatus _ hi (by simpa [hostReadStatus] using h.symm))
  · cases h

/-- A reset is due exactly where it is the next input. -/
theorem resetDue_iff {s : State} : resetDue s = true ↔ s.inputs.head? = some .reset := by simp [resetDue]

/-- A step that is due a reset takes it (70_reset_and_hazards R170). -/
theorem step_of_reset {s : State} {rest : List Input} (h : s.inputs = .reset :: rest) :
    step s = .next (resetBlock { s with inputs := rest }) := by
  simp [step, resetDue, takeReset, h]

/-- Inside a frame, with no reset due, the step is the frame's. -/
theorem step_of_busy {s : State} (hr : s.inputs.head? ≠ some .reset) (hb : s.busy = true) : step s = frameStep s := by
  simp [step, resetDue, hr, hb]

/-- Outside a frame, with no reset due, the step is the command port's. -/
theorem step_of_idle {s : State} (hr : s.inputs.head? ≠ some .reset) (hb : s.busy = false) : step s = commandStep s := by
  simp [step, resetDue, hr, hb]

/-- What a step can do when it answers a next state: every invariant is a case analysis over this. -/
theorem step_effect {s t : State} (h : step s = .next t) : StepEffect s t := by
  by_cases hr : s.inputs.head? = some .reset
  · obtain ⟨rest, hi⟩ := List.head?_eq_some_iff.1 hr
    exact .reset rest hi (by simpa [step_of_reset hi] using h.symm)
  cases hb : s.busy with
  | false =>
    rw [step_of_idle hr hb, commandStep] at h
    split at h
    · rename_i w hc
      obtain ⟨i, hd, he⟩ := acceptWord_next h
      exact .port hr hb w hc i hd he
    · exact idleStep_effect hb ‹_› h
  | true =>
    rw [step_of_busy hr hb, frameStep] at h
    split at h
    · rename_i hw
      exact frameWait_effect hb (by simpa using hw) h
    · rename_i hw
      exact .encoder hb (by simpa using hw) hr (by simpa using h.symm)

end Sys2Proof.Machine
end

