-- ==== Sys2Proof/Tests/Slice0.lean ====
section
/-! SUPPORT. The model's own tests. Expected results are those of spec/95_test_vectors.md (the row's number stands in each
comment) and of the spec's tables; then, for every statement with hypotheses, a witness that meets them. -/

namespace Sys2Proof.Tests

open Sys2Proof Sys2Proof.Machine

/-! ### Fixtures -/

/-- `FX5` of 95_test_vectors: "NOT the hardware's table". -/
def fx5 : Vector Byte 32 := Vector.ofFn fun v => BitVec.ofNat 8 (v.val * 8 + v.val / 4)

/-- `FX4` of 95_test_vectors: "NOT the hardware's table". -/
def fx4 : Vector Byte 16 := #v[0, 11, 23, 35, 47, 59, 71, 83, 95, 117, 140, 163, 186, 209, 232, 255]

/-- Phase `EMPTY` with the fixture tables. -/
def blank : State := { State.reset with pwm5 := fx5, pwm4 := fx4 }

/-- Phase `READY` with a given geometry and pixels. -/
def panel (n l : Index) (xr alt : Bool) (m : PixMem) : State :=
  { blank with phase := .ready, cfg := ⟨n, l, xr, alt⟩, pix := m }

/-- The geometry `NEW 6, 3, 0, 1` of 95_test_vectors 2.5, all black. -/
def panel6 : State := panel 6#16 3#16 false true []

/-- `NEW 1`, with pixel 0 as given. -/
def dot (p : Pixel) : State := panel 1#16 1#16 false false [(0, p)]

/-- `NEW 1`, in the middle of a frame: pure red, bit 3 of the red channel, the link able to take a byte. -/
def midFrame : State :=
  { dot ⟨31#5, 0#5, 0#5⟩ with
    busy := true, link := .ready, cursor := ⟨0#16, .red, 3#3, 0xF8#8⟩
    trace := .csEnter :: (List.replicate 8 0x70#8 ++ List.replicate 3 0x7E#8).map .byte }

/-- The same frame with every byte sent and completed. -/
def endFrame : State :=
  { midFrame with
    frameSent := true
    trace := .csEnter :: (List.replicate 8 0x70#8 ++ List.replicate 8 0x7E#8 ++ List.replicate 8 0x70#8).map .byte }

/-- The state an outcome goes on to. -/
def nextOf : Host.Outcome State Fault Refusal → Option State
  | .next t    => some t
  | .fault _   => none
  | .refused _ => none

/-- Why an outcome is refused. -/
def refusalOf : Host.Outcome State Fault Refusal → Option Refusal
  | .next _    => none
  | .fault _   => none
  | .refused r => some r

/-- Why an outcome faults. -/
def faultOf : Host.Outcome State Fault Refusal → Option Fault
  | .next _    => none
  | .fault f   => some f
  | .refused _ => none

/-- One field of the state after a command. -/
def after {α : Type} (f : State → α) (i : Instr) (s : State) : Option α := (nextOf (exec i s)).map f

/-! ### WellFormed: each check refuses a line that breaks it (30_encoding R70, 93 I11) -/

theorem test_wf_accepts : AsmLine.wf ⟨.setxy, [65535, 65535, 255, 255, 255]⟩ = true := by decide
theorem test_wf_word_too_large : AsmLine.wf ⟨.setxy, [65536, 0, 0, 0, 0]⟩ = false := by decide
theorem test_wf_byte_too_large : AsmLine.wf ⟨.set, [0, 0, 256, 0]⟩ = false := by decide
theorem test_wf_flag_too_large : AsmLine.wf ⟨.new, [6, 3, 2, 0]⟩ = false := by decide
theorem test_wf_too_few : AsmLine.wf ⟨.getxy, [1]⟩ = false := by decide
theorem test_wf_too_many : AsmLine.wf ⟨.showFrame, [0]⟩ = false := by decide
theorem test_assemble_refuses : assemble ⟨.setd, [0, 0, 0, 0, 256]⟩ = none := by decide

/-! ### Encoding (95_test_vectors 2.1) -/

theorem test_decode_new : decode 0x010258012C00000000#72 = .ok (.new 600 300 false false) := by decide
theorem test_decode_new_flags : decode 0x0100060003AABBCCFE#72 = .ok (.new 6 3 false true) := by decide
theorem test_decode_setxy : decode 0x0200000001FF800700#72 = .ok (.setxy 0 1 255 128 7) := by decide
theorem test_decode_setlin : decode 0x0300030000FFFFFF00#72 = .ok (.setlin 3 255 255 255) := by decide
theorem test_decode_setsxy : decode 0x0400010000C8643280#72 = .ok (.setsxy 1 0 200 100 50 128) := by decide
theorem test_decode_setdxy : decode 0x0500020000FFFFFF80#72 = .ok (.setdxy 2 0 255 255 255 128) := by decide
theorem test_decode_setd : decode 0x0600040000FF0008FF#72 = .ok (.setd 4 255 0 8 255) := by decide
theorem test_decode_getxy : decode 0x070000000100000000#72 = .ok (.getxy 0 1) := by decide
theorem test_decode_getlin : decode 0x080003000000000000#72 = .ok (.getlin 3) := by decide
theorem test_decode_getn : decode 0x09FFFFFFFFFFFFFFFF#72 = .ok .getn := by decide
theorem test_decode_show : decode 0x0A123456789ABCDEF0#72 = .ok .showFrame := by decide
theorem test_decode_reserved :
    decode 0x000000000000000000#72 = .error (.reserved 0x00) ∧ decode 0x0B0000000000000000#72 = .error (.reserved 0x0B) ∧
    decode 0xFF0000000000000000#72 = .error (.reserved 0xFF) := by decide
theorem test_decode_bytes :
    decodeBytes [0x02, 0, 0, 0, 1, 0xFF, 0x80, 7, 0] = .ok (.setxy 0 1 255 128 7) := by decide
theorem test_encode_new : encode (.new 4 4 true false) = 0x010004000400000001#72 := by decide
theorem test_encode_setd : encode (.setd 4 255 0 8 255) = 0x0600040000FF0008FF#72 := by decide
theorem test_table_word : decodeTableWord 72 0x080003000000000000 = some (.getlin 3) := by decide
theorem test_assembler_text :
    assembleText "SETXY 0, 1, 255, 0x80, 7 ; comment".toList = some 0x0200000001FF800700#72 := by decide
theorem test_assembler_new : assembleText "NEW 1".toList = some 0x010001000100000000#72 := by decide

/-! ### NEW and GETN (95_test_vectors 2.2) -/

/-- N1. -/
theorem test_new :
    after (fun t => (t.phase, t.cfg, statusWord t, memRead t.pix 5)) (.new 6 3 false true) blank =
      some (.ready, ⟨6, 3, false, true⟩, 0b001#3, ⟨0, 0, 0⟩) := by decide
/-- N2 to N4: the three degenerate geometries. -/
theorem test_new_rejects :
    after statusWord (.new 0 0 false false) blank = some 0b100#3 ∧
    after statusWord (.new 5 0 false false) blank = some 0b100#3 ∧
    after statusWord (.new 7 8 false false) blank = some 0b100#3 := by decide
/-- N8. -/
theorem test_getn : after (fun t => (t.rn, t.rnWritten)) .getn panel6 = some (6, true) := by decide
/-- N9, N10. -/
theorem test_phase_admission :
    refusalOf (exec (.new 6 3 false true) panel6) = some .alreadyConstructed ∧
    refusalOf (exec .showFrame blank) = some .noBuffer := by decide
/-- N11. -/
theorem test_unwritten_rd : faultOf (hostReadRd panel6) = some .rdUnwritten := by decide

/-! ### Addressing (95_test_vectors 2.3) -/

/-- A6 to A9. -/
theorem test_pixAddr_serpentine :
    pixAddr panel6.cfg 0 1 = some 5 ∧ pixAddr panel6.cfg 3 0 = none ∧ pixAddr panel6.cfg 3 1 = none ∧
    pixAddr panel6.cfg 0 2 = none := by decide
/-- A11: a reversed partial last row. -/
theorem test_pixAddr_partial_row :
    pixAddr ⟨7, 3, true, false⟩ 0 2 = none ∧ pixAddr ⟨7, 3, true, false⟩ 1 2 = none ∧
    pixAddr ⟨7, 3, true, false⟩ 2 2 = some 6 := by decide
/-- A13: no 16-bit wrap; A14: the last pixel and one past it. -/
theorem test_pixAddr_exact :
    pixAddr ⟨600, 300, false, false⟩ 0 219 = none ∧ pixAddr ⟨65535, 255, false, false⟩ 0 256 = some 65280 ∧
    pixAddr ⟨65535, 255, false, false⟩ 0 257 = none := by decide

/-! ### Datapath (95_test_vectors 2.4) -/

/-- T1. -/
theorem test_trunc_expand : trunc5 247 = 30 ∧ trunc5 248 = 31 ∧ expand8 31 = 248 := by decide
/-- 20_memory R46: red in bits [4:0], green in [9:5], blue in [14:10]. -/
theorem test_pixelWord : pixelWord ⟨1, 2, 3⟩ = 0x0C41#15 ∧ pixelOfWord 0x0C41#15 = ⟨1, 2, 3⟩ := by decide
/-- S5, S9, S14. -/
theorem test_scale8 : scale8 8 255 = 7 ∧ scale8 200 128 = 100 ∧ scale8 100 100 = 39 := by decide
/-- B1. -/
theorem test_brightness :
    brightnessToPwm fx4 127 = 83 ∧ brightnessToPwm fx4 128 = 95 ∧ brightnessToPwm fx4 143 = 95 := by decide

/-! ### Write and read commands (95_test_vectors 2.5) -/

/-- X1. -/
theorem test_setxy : after (·.pix) (.setxy 0 1 255 128 7) panel6 = some [(5, ⟨31, 16, 0⟩)] := by decide
/-- X12. -/
theorem test_setxy_column_check : after (·.pix) (.setxy 3 0 255 255 255) panel6 = some [] := by decide
/-- X3. -/
theorem test_setlin : after (·.pix) (.setlin 3 255 255 255) panel6 = some [(5, ⟨31, 31, 31⟩)] := by decide
/-- X13. -/
theorem test_setlin_index_check : after (·.pix) (.setlin 6 255 255 255) panel6 = some [] := by decide
/-- X5. -/
theorem test_setsxy : after (·.pix) (.setsxy 1 0 200 100 50 128) panel6 = some [(1, ⟨12, 6, 3⟩)] := by decide
/-- X7. -/
theorem test_setdxy : after (·.pix) (.setdxy 2 0 255 255 255 128) panel6 = some [(2, ⟨11, 11, 11⟩)] := by decide
/-- X10. -/
theorem test_setdxy_full : after (·.pix) (.setdxy 2 0 8 16 24 255) panel6 = some [(2, ⟨0, 1, 2⟩)] := by decide
/-- X11. -/
theorem test_setd : after (·.pix) (.setd 4 255 0 8 255) panel6 = some [(4, ⟨31, 0, 0⟩)] := by decide
/-- X2. -/
theorem test_getxy :
    after (·.rd) (.getxy 0 1) { panel6 with pix := [(5, ⟨31, 16, 0⟩)] } = some ⟨248, 128, 0⟩ := by decide
/-- X15: an invalid address leaves `RD`. -/
theorem test_getlin_invalid :
    after (fun t => (t.rd, t.rdWritten)) (.getlin 6) { panel6 with rd := ⟨248, 128, 0⟩, rdWritten := true } =
      some (⟨248, 128, 0⟩, true) := by decide
/-- X4. -/
theorem test_getlin :
    after (·.rd) (.getlin 3) { panel6 with pix := [(5, ⟨31, 31, 31⟩)] } = some ⟨248, 248, 248⟩ := by decide
/-- Writing black over a pixel keeps the memory canonical (log 1). -/
theorem test_write_black : memWrite [(1, ⟨1, 2, 3⟩), (4, ⟨1, 1, 1⟩)] 1 Pixel.black = [(4, ⟨1, 1, 1⟩)] := by decide

/-! ### SHOW (95_test_vectors 2.6) -/

/-- H6, under the fixture: green 49, red 99, blue 24. -/
theorem test_show :
    after (·.trace) .showFrame (dot ⟨12, 6, 3⟩) =
      some (.csEnter ::
        ([0x70, 0x70, 0x7E, 0x7E, 0x70, 0x70, 0x70, 0x7E, 0x70, 0x7E, 0x7E, 0x70, 0x70, 0x70, 0x7E, 0x7E,
          0x70, 0x70, 0x70, 0x7E, 0x7E, 0x70, 0x70, 0x70] : List Byte).map .byte ++ [.csExit]) := by decide
/-- The small-step check on H3: the third step of the red channel. -/
theorem test_encoder_step :
    (encoderStep midFrame).cursor = ⟨0, .red, 4, 0xF0⟩ ∧
    (encoderStep midFrame).trace = midFrame.trace ++ [.byte 0x7E] := by decide

/-- A reset comes before a word that waits on the port, even one that would be refused (70_reset_and_hazards R170). -/
theorem test_reset_from_any_state :
    (nextOf (step { panel6 with cmd := some 0x000000000000000000#72, inputs := [.reset] })).map
      (fun t => (t.phase, t.cmd, t.inputs)) = some (.empty, none, []) := by decide
/-- A word placed by `withFetchWord` runs in the next step, also where a reset was the next input (log 10). -/
theorem test_withFetchWord :
    (nextOf (step ({ panel6 with inputs := [.reset] }.withFetchWord 72 0x090000000000000000))).map
      (fun t => (t.rn, t.inputs)) = some (6, [.reset]) := by decide

/-! ### Witnesses: hypotheses that the statements' hypotheses are met, clause by clause -/

theorem witness_UnusedFieldsAreIgnored :
    decode 0x0300030000FFFFFF5A#72 = .ok (.setlin 3 255 255 255) ∧
    0x0300030000FFFFFF5A#72 &&& usedBits (.setlin 3 255 255 255) =
      0x030003FFFFFFFFFF00#72 &&& usedBits (.setlin 3 255 255 255) := by decide

theorem witness_ReservedOpcodeIsRefused :
    (fieldOp 0x000000000000000000#72).toNat = 0 ∧ 11 ≤ (fieldOp 0x0B0000000000000000#72).toNat ∧
    11 ≤ (fieldOp 0xFF0000000000000000#72).toNat ∧
    acceptedWord { blank with cmd := some 0x0B0000000000000000#72 } = some 0x0B0000000000000000#72 ∧
    acceptedWord { panel6 with inputs := [.command 0x000000000000000000#72] } = some 0x000000000000000000#72 := by decide

theorem witness_NineBytesOpcodeFirstAreTheWord :
    (List.replicate 8 (0 : Byte)).length ≠ 9 ∧ (List.replicate 10 (0 : Byte)).length ≠ 9 := by decide

theorem witness_AssemblerNeverTruncates :
    assemble ⟨.setsxy, [65535, 0, 255, 0, 1, 255]⟩ = some (.setsxy 65535 0 255 0 1 255) ∧
    assemble ⟨.new, [65535, 1, 1, 0]⟩ = some (.new 65535 1 true false) ∧
  assemble ⟨.setxy, [65535, 0, 255, 0, 1]⟩ = some (.setxy 65535 0 255 0 1) ∧
  assemble ⟨.set, [65535, 0, 255, 1]⟩ = some (.setlin 65535 0 255 1) ∧
  assemble ⟨.setdxy, [0, 65535, 0, 0, 0, 255]⟩ = some (.setdxy 0 65535 0 0 0 255) ∧
  assemble ⟨.setd, [65535, 0, 0, 0, 255]⟩ = some (.setd 65535 0 0 0 255) ∧
  assemble ⟨.getxy, [0, 65535]⟩ = some (.getxy 0 65535) ∧ assemble ⟨.get, [65535]⟩ = some (.getlin 65535) ∧
  assemble ⟨.getn, []⟩ = some .getn ∧ assemble ⟨.showFrame, []⟩ = some .showFrame ∧ blank.phase = .empty := by decide

theorem witness_AssemblerAcceptsExactlyWhatFits :
    (assemble ⟨.new, [1, 1, 0, 1]⟩).isSome = true ∧ (assemble ⟨.write, [0, 0, 0, 0, 0, 0]⟩).isSome = true ∧
    (assemble ⟨.read, [0, 0]⟩).isSome = true ∧ (assemble ⟨.flush, []⟩).isSome = true := by decide

theorem witness_StepRunsTheAcceptedCommand :
    panel6.busy = false ∧ panel6.cmd = none ∧ panel6.inputs = [] ∧
    takesReset { panel6 with cmd := some 0x0A0000000000000000#72 } = false ∧
    decode 0x0A0000000000000000#72 = .ok .showFrame ∧
    decodeTableWord 72 0x0A0000000000000000 = some .showFrame ∧
    { panel6 with cmd := some 0x0A0000000000000000#72 }.cmd = some 0x0A0000000000000000#72 ∧
    { panel6 with inputs := [.command 0x0A0000000000000000#72] }.inputs = .command 0x0A0000000000000000#72 :: [] := by decide

/-- A frame whose port holds `GETN`, just before its end. -/
def waitingEnd : State := { endFrame with cmd := some 0x090000000000000000#72 }

theorem witness_CommandWaitsForTheFrame :
    { midFrame with link := .waiting, inputs := [.command 0x090000000000000000#72] }.busy = true ∧
    { midFrame with link := .waiting }.cmd = none ∧
    waitingEnd.busy = true ∧ takesReset waitingEnd = false ∧
    (nextOf (step waitingEnd)).map (fun t => (t.busy, t.cmd)) = some (false, some 0x090000000000000000#72) ∧
    takesReset { waitingEnd with inputs := [.reset] } = true ∧
    (nextOf (step { waitingEnd with inputs := [.reset] })).map (·.cmd) = some none := by decide

theorem witness_CommandsCompleteExactlyInTheirPhase :
    blank.phase = admittedIn (.new 6 3 false true) ∧ panel6.phase = admittedIn .showFrame ∧
    blank.phase = .empty ∧ admittedIn .getn = .ready ∧ panel6.phase = .ready := by decide

theorem witness_ReadOfUnwrittenResultFaults :
    { panel6 with inputs := [.readRd] }.rdWritten = false ∧ { panel6 with inputs := [.readRn] }.rnWritten = false ∧
    { panel6 with inputs := [.readRd], rdWritten := true }.inputs = .readRd :: [] ∧
    { panel6 with inputs := [.readRn], rnWritten := true }.inputs = .readRn :: [] ∧
    { panel6 with inputs := [.readStatus] }.inputs = .readStatus :: [] := by decide

theorem witness_ResetLeavesAnEmptyBlock :
    admittedIn .getn = .ready ∧ degenerate 1 1 = false ∧ degenerate 65535 65535 = false := by decide

theorem witness_ResetEntersEmpty :
    { panel6 with inputs := [.reset] }.inputs = .reset :: [] ∧ { midFrame with inputs := [.reset] }.inputs = .reset :: [] ∧
    { panel6 with cmd := some 0x000000000000000000#72, inputs := [.reset] }.inputs = .reset :: [] := by decide

theorem witness_ResetDuringFrameCutsTheTrace :
    (nextOf (step { midFrame with inputs := [.reset] })).map (·.phase) = some .empty ∧
    (nextOf (step { panel6 with inputs := [.reset] })).map (·.phase) = some .empty := by decide

theorem witness_NewConstructsOrRejects :
    panel6.phase = .ready ∧ blank.phase = .empty ∧ (0 : Index).toNat = 0 ∧ (1 : Index).toNat < (2 : Index).toNat ∧
    1 ≤ (1 : Index).toNat ∧ (1 : Index).toNat ≤ (1 : Index).toNat ∧ (65535 : Index).toNat ≤ (65535 : Index).toNat := by decide

theorem witness_ConfigErrorSetsOneBit :
    blank.cfgErr = false ∧ after (·.cfgErr) (.new 7 8 false false) blank = some true := by decide

theorem witness_CfgErrTellsTheLastNew :
    after (·.cfgErr) (.new 7 7 false false) { blank with cfgErr := true } = some false ∧
    after (·.cfgErr) (.new 0 7 false false) { blank with cfgErr := true } = some true := by decide

theorem witness_GetnDeliversTheLedCount : blank.phase = .empty ∧ panel6.phase = .ready := by decide

theorem witness_PixAddrChecksColumnThenIndex :
    panel6.cfg.ledsPerRow.toNat ≤ (3 : Index).toNat ∧ (2 : Index).toNat < panel6.cfg.ledsPerRow.toNat ∧
    panel6.cfg.numLeds.toNat ≤ (2 : Index).toNat * panel6.cfg.ledsPerRow.toNat + 0 ∧
    (1 : Index).toNat * panel6.cfg.ledsPerRow.toNat + (panel6.cfg.ledsPerRow.toNat - 1 - 0) < panel6.cfg.numLeds.toNat := by decide

theorem witness_LinearIndexSplitsIntoColumnAndRow : 1 ≤ panel6.cfg.ledsPerRow.toNat := by decide

theorem witness_TransformIsAPermutation :
    panel6.cfg.legal ∧ (2 : Index) < panel6.cfg.ledsPerRow ∧ (1 : Index).toNat < panel6.cfg.numLeds.toNat / panel6.cfg.ledsPerRow.toNat ∧
    5 < panel6.cfg.ledsPerRow.toNat * (panel6.cfg.numLeds.toNat / panel6.cfg.ledsPerRow.toNat) ∧
    pixAddr panel6.cfg 0 1 = some 5 := by decide

theorem witness_PartialLastRowIsReachedFromItsOwnSide :
    Geometry.legal ⟨7, 3, true, false⟩ ∧ (2 : Index).toNat = (7 : Index).toNat / (3 : Index).toNat ∧
    (2 : Index) < (3 : Index) ∧ (8 : Index).toNat = (2 : Index).toNat * (3 : Index).toNat + (2 : Index).toNat := by decide

theorem witness_LinearIndexHasItsClosedForm :
    xyFromLinear panel6.cfg 3 = (0, 1) ∧ rowReversed panel6.cfg 0 = false ∧ rowReversed panel6.cfg 1 = true ∧
    1 ≤ panel6.cfg.ledsPerRow.toNat ∧ pixAddr ⟨6, 3, false, false⟩ 2 1 = some 5 := by decide

theorem witness_romsPinned : blank.romsPinned ∧ panel6.romsPinned := by decide

theorem witness_BrightnessReadsTheHighNibble :
    ((15 : Fin 16).val = (255 : Byte).toNat / 16) ∧ (15 : Byte).toNat ≤ 15 ∧ 128 ≤ (128 : Byte).toNat ∧
    (143 : Byte).toNat ≤ 143 ∧ 240 ≤ (240 : Byte).toNat := by decide

/-- For the result statements of `SETXY`, `SETSXY`, `SETDXY` and `GETXY`: a valid address at each edge, and an invalid one. -/
theorem witness_xy_addresses :
    panel6.phase = .ready ∧ pixAddr panel6.cfg 0 0 = some 0 ∧ pixAddr panel6.cfg 2 1 = some 3 ∧
    pixAddr panel6.cfg 3 0 = none ∧ pixAddr panel6.cfg 0 2 = none ∧ Memory.wf panel6.pix ∧
    brightnessToPwm panel6.pwm4 255 = 255 := by decide

/-- For the result statements of `SET`, `SETD` and `GET`. -/
theorem witness_linear_addresses :
    pixAddr panel6.cfg (5 % panel6.cfg.ledsPerRow) (5 / panel6.cfg.ledsPerRow) = some 3 ∧
    pixAddr panel6.cfg (6 % panel6.cfg.ledsPerRow) (6 / panel6.cfg.ledsPerRow) = none ∧
    pixAddr panel6.cfg (xyFromLinear panel6.cfg 5).1 (xyFromLinear panel6.cfg 5).2 = some 3 := by decide

theorem witness_WriteCommandsChangeOnlyTheAddressedPixel :
    isWrite (.setd 4 255 0 8 255) = true ∧ writeTarget panel6.cfg (.setd 4 255 0 8 255) = some 4 ∧
    writeTarget panel6.cfg (.setd 6 255 0 8 255) = none ∧
    after (·.pix) (.setd 4 255 0 8 255) panel6 = some [(4, ⟨31, 0, 0⟩)] := by decide

theorem witness_LinearAndXyWritesAgree :
    (2 : Index) < panel6.cfg.ledsPerRow ∧ (5 : Index).toNat = (1 : Index).toNat * panel6.cfg.ledsPerRow.toNat + (2 : Index).toNat := by decide

theorem witness_RepeatedWriteIsOneWrite :
    Memory.wf panel6.pix ∧ isWrite (.setxy 0 1 1 2 3) = true ∧ isWrite (.setlin 3 255 0 0) = true ∧
    writeTarget panel6.cfg (.setxy 0 1 1 2 3) = writeTarget panel6.cfg (.setlin 3 255 0 0) ∧
    ((nextOf (exec (.setxy 0 1 8 16 24) panel6)).bind fun t => after (·.pix) (.setlin 3 255 0 0) t) =
      some [(5, ⟨31, 0, 0⟩)] := by decide

theorem witness_EqualReadsMeanEqualMemories : Memory.wf [(5, ⟨31, 0, 0⟩)] ∧ Memory.wf ([] : PixMem) := by decide

theorem witness_ReadCommandsDisturbNothing :
    isRead (.getlin 3) = true ∧ readTarget panel6.cfg (.getlin 6) = none ∧
    after (·.rd) (.getlin 3) panel6 = some ⟨0, 0, 0⟩ := by decide

theorem witness_OutOfRangeAddressIsSilent :
    isWrite (.setdxy 3 0 1 2 3 4) = true ∧ writeTarget panel6.cfg (.setdxy 3 0 1 2 3 4) = none ∧
    isRead (.getxy 0 2) = true ∧ readTarget panel6.cfg (.getxy 0 2) = none := by decide

theorem witness_ShowSendsTheFrame : blank.phase = .empty ∧ panel6.phase = .ready ∧ panel6.link = .prompt := by decide

theorem witness_FrameByteFormula : 23 < 24 * (dot Pixel.black).cfg.numLeds.toNat := by decide

theorem witness_OnlyTheTwoSymbolsAreEmitted :
    (nextOf (step midFrame)).map (fun t => decide (.byte 0x7E ∈ t.trace)) = some true := by decide

theorem witness_FrameAfterNewIsDark :
    blank.phase = .empty ∧ blank.link = .prompt ∧ blank.romsPinned ∧ 1 ≤ (1 : Index).toNat := by decide

/-- `NEW 1`, before and after `SET 0, 255, 255, 255`. -/
def whiten : Nat → State
  | 0     => dot ⟨1#5, 2#5, 3#5⟩
  | _ + 1 => dot ⟨31#5, 31#5, 31#5⟩

theorem witness_WhitenedPanelSendsOnes :
    (whiten 0).phase = .ready ∧ (whiten 0).cfg.legal ∧ Memory.wf (whiten 0).pix ∧ (whiten 0).romsPinned ∧
    1 = (whiten 0).cfg.numLeds.toNat ∧ 1 % (whiten 0).cfg.ledsPerRow.toNat = 0 := by decide

theorem witness_WhitenedPanelSendsOnes_steps :
    ∀ i, i < 1 → exec (.setlin (BitVec.ofNat 16 i) 255#8 255#8 255#8) (whiten i) = .next (whiten (i + 1)) := by
  intro i hi
  obtain rfl : i = 0 := by omega
  rfl

theorem witness_SteppedShowStartsTheFrame : panel6.phase = .ready ∧ { panel6 with link := .ready }.link ≠ .prompt := by decide

theorem witness_EncoderStepSendsOneBit :
    midFrame.busy = true ∧ midFrame.link = .ready ∧ midFrame.frameSent = false ∧ midFrame.inputs.head? ≠ some .reset ∧
    midFrame.cursor.bi ≠ 7#3 := by decide

/-- The last bit of a channel, for each channel, with a next pixel and without one. -/
theorem witness_EncoderStepSendsOneBit_channels :
    { midFrame with cursor := ⟨0, .green, 7, 0⟩ }.cursor.bi = 7#3 ∧
    { midFrame with cursor := ⟨0, .red, 7, 0⟩ }.cursor.ch = .red ∧
    { midFrame with cursor := ⟨0, .blue, 7, 0⟩ }.cfg.numLeds.toNat ≤ (0 : Index).toNat + 1 ∧
    (4 : Index).toNat + 1 < { midFrame with cursor := ⟨4, .blue, 7, 0⟩, cfg := ⟨6, 3, false, true⟩ }.cfg.numLeds.toNat := by decide

theorem witness_FrameEndsWhenTheLinkIsDone :
    endFrame.busy = true ∧ endFrame.link = .ready ∧ endFrame.frameSent = true ∧ endFrame.inputs.head? ≠ some .reset ∧
    { endFrame with link := .waiting }.link = .waiting ∧ takesReset { endFrame with link := .waiting } = false ∧
    (nextOf (step { endFrame with link := .waiting })).map (·.busy) = some true := by decide

/-- `NEW 1` with `SHOW` presented and a link that reports its 24 bytes done. -/
def presented : State :=
  { dot ⟨31#5, 0#5, 0#5⟩ with
    link := .ready, inputs := .command (encode .showFrame) :: (List.replicate 24 .serialDone ++ []) }

theorem witness_SmallStepsEqualTheBigStep :
    presented.phase = .ready ∧ presented.cfg.legal ∧ presented.busy = false ∧ presented.cmd = none ∧
    presented.link = .ready ∧ ([] : List Input).head? ≠ some .reset ∧
    presented.inputs = .command (encode .showFrame) ::
      (List.replicate (24 * presented.cfg.numLeds.toNat) .serialDone ++ []) := by decide

theorem midFrame_inv : midFrame.Inv where
  memWf := by decide
  memBound := by decide
  geometry := by decide
  emptyPhase := by decide
  cfgErr := by decide
  rdLow := by decide
  rn := by decide
  roms := by decide
  idle := by decide
  cursor := fun _ _ => ⟨by decide, by decide⟩
  trace := ⟨[], by decide, by decide⟩

theorem witness_EveryStepKeepsTheInvariant :
    midFrame.Inv ∧ (nextOf (step midFrame)).map (·.link) = some .waiting := ⟨midFrame_inv, by decide⟩

theorem witness_RomsNeverChange : (nextOf (step panel6)).map (·.pix) = some [] := by decide

theorem witness_GeometryIsFixedWhileReady :
    midFrame.Inv ∧ midFrame.phase = .ready ∧ takesReset midFrame = false ∧ (nextOf (step midFrame)).isSome = true :=
  ⟨midFrame_inv, by decide⟩

/-- A word on the port that changes a pixel. -/
theorem witness_PixelsChangeOnlyByWriteCommands :
    ((nextOf (step { panel6 with cmd := some 0x0300030000FFFFFF00#72 })).map fun t => memRead t.pix 5) ≠
      some (memRead panel6.pix 5) := by decide

/-- Words on the port that change `RD` and `RN`. -/
theorem witness_ResultsChangeOnlyByTheirCommands :
    takesReset { panel6 with cmd := some 0x080003000000000000#72 } = false ∧
    (nextOf (step { panel6 with cmd := some 0x080003000000000000#72 })).map (·.rdWritten) = some true ∧
    (nextOf (step { panel6 with cmd := some 0x090000000000000000#72 })).map (·.rn) = some 6 := by decide

/-- Each status bit changes. -/
theorem witness_StatusChangesOnlyAsTheTableSays :
    (nextOf (step { blank with cmd := some 0x010006000300000002#72 })).map (·.phase) = some .ready ∧
    (nextOf (step { blank with cmd := some 0x010007000800000000#72 })).map (·.cfgErr) = some true ∧
    (nextOf (step { panel6 with link := .ready, cmd := some 0x0A0000000000000000#72 })).map (·.busy) = some true ∧
    (nextOf (step endFrame)).map (·.busy) = some false := by decide

theorem witness_TraceOnlyGrowsByFrames :
    takesReset midFrame = false ∧ (nextOf (step midFrame)).map (·.trace.length) = some 13 := by decide

end Sys2Proof.Tests
end

section
/-! Facts that hold across every step: the lookup ROMs (10_state R33) and, in `READY`, the phase and the geometry
(10_state R23). -/

namespace Sys2Proof.Machine

variable {s t : State} {i : Instr}

/-- Raising `ConfigError` only records `CFGERR` (60_exceptions R151). -/
@[simp] theorem raiseConfigError_eq_setCfgErr (s : State) : raiseConfigError s = setCfgErr s := rfl

/-! ### What an encoder step leaves unchanged -/

@[simp] theorem encoderStep_phase (s : State) : (encoderStep s).phase = s.phase := by
  obtain ⟨-, h⟩ | ⟨-, h⟩ := encoderStep_cases s <;> simp [h]
@[simp] theorem encoderStep_cfg (s : State) : (encoderStep s).cfg = s.cfg := by
  obtain ⟨-, h⟩ | ⟨-, h⟩ := encoderStep_cases s <;> simp [h]
@[simp] theorem encoderStep_pwm5 (s : State) : (encoderStep s).pwm5 = s.pwm5 := by
  obtain ⟨-, h⟩ | ⟨-, h⟩ := encoderStep_cases s <;> simp [h]
@[simp] theorem encoderStep_pwm4 (s : State) : (encoderStep s).pwm4 = s.pwm4 := by
  obtain ⟨-, h⟩ | ⟨-, h⟩ := encoderStep_cases s <;> simp [h]

/-- Taking an input that is neither a command, a reset nor link set-up changes the inputs left and the link only. -/
theorem InputEffect.eq_withInputsLink (h : InputEffect s t) : t = { s with inputs := t.inputs, link := t.link } := by
  cases h with
  | wait _ ht => rw [ht]
  | done _ _ ht => rw [ht]
  | readRd _ _ _ ht => rw [ht]
  | readRn _ _ _ ht => rw [ht]
  | readStatus _ _ ht => rw [ht]

/-! ### Commands -/

/-- No command writes a ROM (10_state R33). -/
theorem exec_keeps_roms (h : exec i s = .next t) : t.pwm5 = s.pwm5 ∧ t.pwm4 = s.pwm4 := by
  obtain ⟨_, _, _, _, -, -, -, rfl⟩ | ⟨_, _, _, _, -, -, -, rfl⟩ | ⟨-, -, _, _, _, -, rfl⟩ | ⟨-, -, _, _, -, rfl⟩ |
    ⟨-, -, rfl⟩ | ⟨-, -, -, rfl⟩ | ⟨-, -, -, rfl⟩ := exec_cases h <;> simp

/-- A command that completes in `READY` is no `NEW`, and every other command keeps phase and geometry (30_encoding R73,
10_state R23). -/
theorem exec_keeps_geometry (hp : s.phase = .ready) (h : exec i s = .next t) : t.phase = .ready ∧ t.cfg = s.cfg := by
  obtain ⟨_, _, _, _, -, he, -⟩ | ⟨_, _, _, _, -, he, -⟩ | ⟨-, -, _, _, _, -, rfl⟩ | ⟨-, -, _, _, -, rfl⟩ |
    ⟨-, -, rfl⟩ | ⟨-, -, -, rfl⟩ | ⟨-, -, -, rfl⟩ := exec_cases h
  · simp [hp] at he
  · simp [hp] at he
  all_goals simp [hp]

/-! ### Steps -/

/-- No step writes a ROM, a reset included (10_state R33). -/
theorem step_keeps_roms (h : step s = .next t) : t.pwm5 = s.pwm5 ∧ t.pwm4 = s.pwm4 := by
  cases step_effect h with
  | reset _ _ ht => simp [ht]
  | port _ _ _ _ _ _ he => exact exec_keeps_roms (s := { s with cmd := none }) he
  | command _ _ _ rest _ _ _ he => exact exec_keeps_roms (s := { s with inputs := rest }) he
  | setup _ _ _ _ _ ht => simp [ht]
  | idle _ _ he => rw [he.eq_withInputsLink]; exact ⟨rfl, rfl⟩
  | encoder _ _ _ ht => simp [ht]
  | hold _ _ _ _ _ _ ht => simp [ht]
  | frame _ _ he => rw [he.eq_withInputsLink]; exact ⟨rfl, rfl⟩

/-- A step in `READY` that takes no reset stays in `READY` and keeps the geometry (10_state R23). -/
theorem step_keeps_geometry (hp : s.phase = .ready) (h : step s = .next t) (hr : takesReset s = false) :
    t.phase = .ready ∧ t.cfg = s.cfg := by
  cases step_effect h with
  | reset _ hi _ => simp [resetDue, hi] at hr
  | port _ _ _ _ _ _ he => exact exec_keeps_geometry (s := { s with cmd := none }) hp he
  | command _ _ _ rest _ _ _ he => exact exec_keeps_geometry (s := { s with inputs := rest }) hp he
  | setup _ _ _ _ _ ht => simp [ht, hp]
  | idle _ _ he => rw [he.eq_withInputsLink]; exact ⟨hp, rfl⟩
  | encoder _ _ _ ht => simp [ht, hp]
  | hold _ _ _ _ _ _ ht => simp [ht, hp]
  | frame _ _ he => rw [he.eq_withInputsLink]; exact ⟨hp, rfl⟩

/-- Settles O55, by the cases of a step: a command, an encoder step, an input and a reset each keep both tables. -/
theorem romsNeverChange : Obligations.RomsNeverChange := fun _ _ h => step_keeps_roms h

/-- Settles O56: legality is the invariant's, with `numLeds ≥ 1` by transitivity; that the geometry is fixed is
`step_keeps_geometry`. -/
theorem geometryIsFixedWhileReady : Obligations.GeometryIsFixedWhileReady := by
  refine ⟨fun s hInv hp => ?_, fun _ _ hp h hr => step_keeps_geometry hp h hr⟩
  obtain ⟨hrow, hle⟩ := hInv.geometry hp
  exact ⟨hrow, hle, hrow.trans hle⟩

end Sys2Proof.Machine
end

section
/-! The encoding (30_encoding): a word decodes to a command exactly where it is that command's encoding on the bits the
command uses (R64 to R67), and every word is a command or reserved by its opcode (R65, R68, R72). -/

namespace Sys2Proof

variable {w w' m : CmdWord} {i : Instr}

/-! ### Fields of masked words -/

/-- Two words are equal exactly where their seven fields are (30_encoding R63). -/
theorem word_eq_iff_fields_eq : w = w' ↔
    fieldOp w = fieldOp w' ∧ fieldA w = fieldA w' ∧ fieldB w = fieldB w' ∧ fieldR w = fieldR w' ∧
    fieldG w = fieldG w' ∧ fieldBl w = fieldBl w' ∧ fieldAux w = fieldAux w' := by
  refine ⟨by rintro rfl; simp, fun ⟨hop, ha, hb, hr, hg, hbl, haux⟩ => ?_⟩
  rw [← packWord_fields w, ← packWord_fields w', hop, ha, hb, hr, hg, hbl, haux]

@[simp] theorem fieldOp_and : fieldOp (w &&& m) = fieldOp w &&& fieldOp m := BitVec.extractLsb'_and
@[simp] theorem fieldA_and : fieldA (w &&& m) = fieldA w &&& fieldA m := BitVec.extractLsb'_and
@[simp] theorem fieldB_and : fieldB (w &&& m) = fieldB w &&& fieldB m := BitVec.extractLsb'_and
@[simp] theorem fieldR_and : fieldR (w &&& m) = fieldR w &&& fieldR m := BitVec.extractLsb'_and
@[simp] theorem fieldG_and : fieldG (w &&& m) = fieldG w &&& fieldG m := BitVec.extractLsb'_and
@[simp] theorem fieldBl_and : fieldBl (w &&& m) = fieldBl w &&& fieldBl m := BitVec.extractLsb'_and
@[simp] theorem fieldAux_and : fieldAux (w &&& m) = fieldAux w &&& fieldAux m := BitVec.extractLsb'_and

/-- A packed word is a masked word exactly where it is so field by field. -/
theorem packWord_eq_and_iff {op r g bl aux mop mr mg mbl maux : Byte} {a b ma mb : Index} :
    packWord op a b r g bl aux = w &&& packWord mop ma mb mr mg mbl maux ↔
      fieldOp w &&& mop = op ∧ fieldA w &&& ma = a ∧ fieldB w &&& mb = b ∧ fieldR w &&& mr = r ∧
      fieldG w &&& mg = g ∧ fieldBl w &&& mbl = bl ∧ fieldAux w &&& maux = aux := by
  rw [eq_comm, word_eq_iff_fields_eq]
  simp

@[simp] theorem byte_and_full (x : Byte) : x &&& 0xFF#8 = x := BitVec.and_allOnes
@[simp] theorem index_and_full (x : Index) : x &&& 0xFFFF#16 = x := BitVec.and_allOnes

/-! ### The fields each command uses (30_encoding R64), as a packed mask -/

@[simp] theorem usedBits_new {n l : Index} {xr alt : Bool} :
    usedBits (.new n l xr alt) = packWord 0xFF#8 0xFFFF#16 0xFFFF#16 0#8 0#8 0#8 3#8 := rfl
@[simp] theorem usedBits_setxy {x y : Index} {r g b : Byte} : usedBits (.setxy x y r g b) =
    packWord 0xFF#8 0xFFFF#16 0xFFFF#16 0xFF#8 0xFF#8 0xFF#8 0#8 := rfl
@[simp] theorem usedBits_setlin {k : Index} {r g b : Byte} : usedBits (.setlin k r g b) =
    packWord 0xFF#8 0xFFFF#16 0#16 0xFF#8 0xFF#8 0xFF#8 0#8 := rfl
@[simp] theorem usedBits_setsxy {x y : Index} {r g b f : Byte} : usedBits (.setsxy x y r g b f) =
    packWord 0xFF#8 0xFFFF#16 0xFFFF#16 0xFF#8 0xFF#8 0xFF#8 0xFF#8 := rfl
@[simp] theorem usedBits_setdxy {x y : Index} {r g b br : Byte} : usedBits (.setdxy x y r g b br) =
    packWord 0xFF#8 0xFFFF#16 0xFFFF#16 0xFF#8 0xFF#8 0xFF#8 0xFF#8 := rfl
@[simp] theorem usedBits_setd {k : Index} {r g b br : Byte} : usedBits (.setd k r g b br) =
    packWord 0xFF#8 0xFFFF#16 0#16 0xFF#8 0xFF#8 0xFF#8 0xFF#8 := rfl
@[simp] theorem usedBits_getxy {x y : Index} : usedBits (.getxy x y) =
    packWord 0xFF#8 0xFFFF#16 0xFFFF#16 0#8 0#8 0#8 0#8 := rfl
@[simp] theorem usedBits_getlin {k : Index} : usedBits (.getlin k) =
    packWord 0xFF#8 0xFFFF#16 0#16 0#8 0#8 0#8 0#8 := rfl
@[simp] theorem usedBits_getn : usedBits .getn = packWord 0xFF#8 0#16 0#16 0#8 0#8 0#8 0#8 := rfl
@[simp] theorem usedBits_showFrame : usedBits .showFrame = packWord 0xFF#8 0#16 0#16 0#8 0#8 0#8 0#8 := rfl

/-- The flags of `NEW` are the two low bits of `AUX` (30_encoding R64, R70). -/
theorem and_eq_newFlags_iff {xr alt : Bool} {x : Byte} :
    x &&& 3#8 = newFlags xr alt ↔ x.getLsbD 0 = xr ∧ x.getLsbD 1 = alt := by
  revert xr alt x
  decide

/-! ### The decoder -/

/-- A decoded command is that of the word's opcode (30_encoding R65). -/
theorem opcode_of_decode (h : decode w = .ok i) : opcode i = fieldOp w := by
  unfold decode at h
  split at h <;> cases h <;> exact BitVec.eq_of_toNat_eq (Eq.symm ‹_›)

/-- The encoding of a decoded command is the word, on the bits the command uses (30_encoding R66, R67). -/
theorem encode_of_decode (h : decode w = .ok i) : encode i = w &&& usedBits i := by
  have hop := opcode_of_decode h
  unfold decode at h
  split at h <;> cases h <;> simp [encode, packWord_eq_and_iff, and_eq_newFlags_iff, ← hop, opcode]

/-- A word that is a command's encoding on the bits the command uses decodes to it (30_encoding R66, R67). -/
theorem decode_of_encode (h : encode i = w &&& usedBits i) : decode w = .ok i := by
  cases i <;> simp [encode, opcode, packWord_eq_and_iff, and_eq_newFlags_iff] at h <;> simp [decode, h]

/-- The decoder and the encoder agree: a word decodes to a command exactly where it is that command's encoding on the bits
the command uses (30_encoding R64 to R67). -/
theorem decode_eq_ok_iff : decode w = .ok i ↔ encode i = w &&& usedBits i := ⟨encode_of_decode, decode_of_encode⟩

/-- The ten opcodes are defined (30_encoding R65). -/
theorem exists_decode_of_opcode (hlo : 1 ≤ (fieldOp w).toNat) (hhi : (fieldOp w).toNat ≤ 10) :
    ∃ i, decode w = .ok i := by
  interval_cases hop : (fieldOp w).toNat <;> simp [decode, hop]

/-- Every other opcode is reserved (30_encoding R68). -/
theorem decode_of_reserved (h : (fieldOp w).toNat = 0 ∨ 11 ≤ (fieldOp w).toNat) :
    decode w = .error (.reserved (fieldOp w)) := by
  unfold decode
  split
  case h_11 => rfl
  all_goals omega

end Sys2Proof
end

section
/-! The command port and the admission of commands by phase (30_encoding R68, R73). -/

namespace Sys2Proof.Machine

variable {w : CmdWord} {i : Instr} {s : State}

/-- A word with a reserved opcode is refused (30_encoding R68). -/
theorem acceptWord_of_reserved (h : (fieldOp w).toNat = 0 ∨ 11 ≤ (fieldOp w).toNat) (s : State) :
    acceptWord w s = .refused (.reservedOpcode (fieldOp w)) := by
  simp [acceptWord, decode_of_reserved h]

/-- A word that is a command is executed (30_encoding R72). -/
theorem acceptWord_of_decode (h : decode w = .ok i) (s : State) : acceptWord w s = exec i s := by
  simp [acceptWord, h]

/-- An input list whose first input presents a word begins with that command. -/
theorem eq_command_of_presentedWord {ins : List Input} (h : ins.head?.bind presentedWord = some w) :
    ∃ rest, ins = .command w :: rest := by
  match ins with
  | .command w' :: rest => exact ⟨rest, by simp_all [presentedWord]⟩

/-- A word that waits on the port is taken off it and accepted. -/
theorem commandStep_of_waiting (hc : s.cmd = some w) : commandStep s = acceptWord w { s with cmd := none } := by
  simp only [commandStep, hc]

/-- With no word on the port, a word the host presents is taken off the inputs and accepted. -/
theorem commandStep_of_presented {rest : List Input} (hc : s.cmd = none) (hi : s.inputs = .command w :: rest) :
    commandStep s = acceptWord w { s with inputs := rest } := by
  simp only [commandStep, hc, idleStep, hi]

/-- The word the next step accepts waits on the port or is presented now, and the step takes it and accepts it, doing
nothing else (10_state R39, 45_bitstream R141). -/
theorem step_of_acceptedWord (h : acceptedWord s = some w) :
    (s.cmd = some w ∧ step s = acceptWord w { s with cmd := none }) ∨
    ∃ rest, s.cmd = none ∧ s.inputs = .command w :: rest ∧ step s = acceptWord w { s with inputs := rest } := by
  unfold acceptedWord at h
  split at h
  · cases h
  rename_i hn
  obtain ⟨hr, hb⟩ : s.inputs.head? ≠ some .reset ∧ s.busy = false := by simpa [resetDue] using hn
  rw [step_of_idle hr hb]
  obtain hc | ⟨w', hc⟩ := Option.eq_none_or_eq_some s.cmd
  · simp only [hc] at h
    obtain ⟨rest, hi⟩ := eq_command_of_presentedWord h
    exact .inr ⟨rest, hc, hi, commandStep_of_presented hc hi⟩
  · simp only [hc, Option.some.injEq] at h
    subst h
    exact .inl ⟨hc, commandStep_of_waiting hc⟩

/-! ### Admission by phase (30_encoding R73) -/

/-- Only `NEW` is admitted in `EMPTY`. -/
theorem eq_new_of_admittedIn_empty (h : admittedIn i = .empty) : ∃ n l xr alt, i = .new n l xr alt := by
  cases i <;> simp_all [admittedIn]

/-- Every other command runs under the check of `whenReady`. -/
theorem exec_eq_whenReady (h : admittedIn i = .ready) (s : State) : ∃ t, exec i s = whenReady s t := by
  cases i with
  | new => cases h
  | _ => exact ⟨_, rfl⟩

/-- `NEW` completes in `EMPTY`, whether it constructs the buffer or rejects the geometry (40_construct R80, R81). -/
theorem exec_new_of_empty (h : s.phase = .empty) (n l : Index) (xr alt : Bool) :
    ∃ t, exec (.new n l xr alt) s = .next t := by
  cases hd : degenerate n l <;> simp [exec, execNew, h, hd]

/-- `NEW` is refused in `READY`. -/
theorem exec_new_of_ready (h : s.phase = .ready) (n l : Index) (xr alt : Bool) :
    exec (.new n l xr alt) s = .refused .alreadyConstructed := by
  simp [exec, execNew, h]

/-- A command but `NEW` is refused in `EMPTY`. -/
theorem exec_of_empty (ha : admittedIn i = .ready) (hp : s.phase = .empty) : exec i s = .refused .noBuffer := by
  obtain ⟨t, ht⟩ := exec_eq_whenReady ha s
  rw [ht, whenReady_of_empty hp]

/-- A command completes in the phase that admits it and is refused in the other. -/
theorem exec_completes_or_refused (i : Instr) (s : State) :
    (s.phase = admittedIn i ∧ ∃ t, exec i s = .next t) ∨ (s.phase ≠ admittedIn i ∧ ∃ r, exec i s = .refused r) := by
  cases ha : admittedIn i with
  | empty =>
    obtain ⟨n, l, xr, alt, rfl⟩ := eq_new_of_admittedIn_empty ha
    cases hp : s.phase with
    | empty => exact .inl ⟨rfl, exec_new_of_empty hp n l xr alt⟩
    | ready => exact .inr ⟨nofun, _, exec_new_of_ready hp n l xr alt⟩
  | ready =>
    cases hp : s.phase with
    | empty => exact .inr ⟨nofun, _, exec_of_empty ha hp⟩
    | ready =>
      obtain ⟨t, ht⟩ := exec_eq_whenReady ha s
      exact .inl ⟨rfl, t, ht.trans (whenReady_of_ready hp t)⟩

/-- A command completes exactly in the phase that admits it. -/
theorem exec_next_iff : (∃ t, exec i s = .next t) ↔ s.phase = admittedIn i := by
  obtain ⟨hp, t, ht⟩ | ⟨hp, r, hr⟩ := exec_completes_or_refused i s
  · simp [hp, ht]
  · simp [hp, hr]

/-- No command faults (60_exceptions R154). -/
theorem exec_ne_fault (i : Instr) (s : State) (f : Fault) : exec i s ≠ .fault f := by
  obtain ⟨-, t, ht⟩ | ⟨-, r, hr⟩ := exec_completes_or_refused i s
  · simp [ht]
  · simp [hr]

/-! ### The obligations -/

/-- Settles O2: a word that agrees on the used bits has the same masked word, so by `decode_eq_ok_iff` it decodes to the
same command, and what is accepted is that command. -/
theorem unusedFieldsAreIgnored : Obligations.UnusedFieldsAreIgnored := by
  refine ⟨fun w w' i s hd hw => ?_, fun _ _ => encode_of_decode⟩
  have hd' : decode w' = .ok i := decode_eq_ok_iff.2 ((decode_eq_ok_iff.1 hd).trans hw)
  exact ⟨hd', by rw [acceptWord_of_decode hd, acceptWord_of_decode hd']⟩

/-- Settles O3, by whether the opcode is one of the ten. -/
theorem decoderIsTotalAndOpcodeSelects : Obligations.DecoderIsTotalAndOpcodeSelects := by
  intro w
  by_cases hop : 1 ≤ (fieldOp w).toNat ∧ (fieldOp w).toNat ≤ 10
  · obtain ⟨hlo, hhi⟩ := hop
    obtain ⟨i, hd⟩ := exists_decode_of_opcode hlo hhi
    exact .inl ⟨⟨hlo, hhi⟩, i, hd, opcode_of_decode hd, encode_of_decode hd⟩
  · have hres : (fieldOp w).toNat = 0 ∨ 11 ≤ (fieldOp w).toNat := by omega
    exact .inr ⟨hres, decode_of_reserved hres⟩

/-- Settles O4: whether the word waits on the port or is presented now, the step accepts it, and accepting it is refused. -/
theorem reservedOpcodeIsRefused : Obligations.ReservedOpcodeIsRefused := by
  intro w s hres hw
  obtain ⟨-, hstep⟩ | ⟨_, -, -, hstep⟩ := step_of_acceptedWord hw <;> rw [hstep, acceptWord_of_reserved hres]

/-- Settles O11: `NEW` checks the phase itself, the other nine commands under `whenReady`. -/
theorem commandsCompleteExactlyInTheirPhase : Obligations.CommandsCompleteExactlyInTheirPhase :=
  ⟨fun _ _ => exec_next_iff, fun _ _ hp ha => exec_of_empty ha hp, fun n l xr alt _ hp => exec_new_of_ready hp n l xr alt,
    exec_ne_fault⟩

end Sys2Proof.Machine
end

section
/-! Construction and geometry query (40_construct R80, R81, R84). -/

namespace Sys2Proof.Machine

variable {s : State} {n l : Index}

/-- In `EMPTY`, `NEW` rejects a degenerate geometry (40_construct R81). -/
theorem exec_new_of_degenerate (hp : s.phase = .empty) (hd : degenerate n l = true) (xr alt : Bool) :
    exec (.new n l xr alt) s = .next (raiseConfigError s) := by
  simp [exec, execNew, hp, hd]

/-- In `EMPTY`, `NEW` constructs the buffer of any other geometry (40_construct R80). -/
theorem exec_new_of_not_degenerate (hp : s.phase = .empty) (hd : degenerate n l = false) (xr alt : Bool) :
    exec (.new n l xr alt) s = .next (construct ⟨n, l, xr, alt⟩ s) := by
  simp [exec, execNew, hp, hd]

/-- A geometry that is not degenerate has a row, and its row is no longer than the strip. -/
theorem degenerate_eq_false_iff (n l : Index) : degenerate n l = false ↔ 1 ≤ l.toNat ∧ l.toNat ≤ n.toNat := by
  rw [← Bool.not_eq_true, degenerate_iff]
  omega

/-- A construction writes the geometry, the memory, `CFGERR` and the phase, and nothing else (40_construct R80). -/
theorem construct_eq (g : Geometry) (s : State) :
    construct g s = { s with cfg := g, pix := memClear, cfgErr := false, phase := .ready } := rfl

/-- `GETN` completes in `READY` and loads the LED count (40_construct R84). -/
theorem exec_getn_of_ready (hp : s.phase = .ready) : exec .getn s = .next (loadCount s) := whenReady_of_ready hp _

/-- Settles O18, by the phase and, in `EMPTY`, by whether the geometry is degenerate. -/
theorem newConstructsOrRejects : Obligations.NewConstructsOrRejects := by
  intro n l xr alt s
  refine ⟨fun hp => exec_new_of_ready hp n l xr alt, fun hp hd => ?rejects, fun hp hl hn => ?constructs⟩
  case rejects => exact exec_new_of_degenerate hp ((degenerate_iff n l).2 hd) xr alt
  case constructs =>
    have hd : degenerate n l = false := (degenerate_eq_false_iff n l).2 ⟨hl, hn⟩
    exact ⟨_, exec_new_of_not_degenerate hp hd xr alt, construct_eq .., memRead_memClear⟩

/-- Settles O21: `GETN` runs under the check of `whenReady`, and `loadCount` writes `RN` and its mark only. -/
theorem getnDeliversTheLedCount : Obligations.GetnDeliversTheLedCount :=
  fun _ => ⟨exec_of_empty rfl, exec_getn_of_ready⟩

end Sys2Proof.Machine
end

section
/-! The addressing transform (41_addressing R90 to R98). The physical index of a coordinate has the row as its quotient by the
row length and the column, mirrored in a reversed row, as its remainder; mirroring is its own inverse. -/

namespace Sys2Proof.Machine

variable {cfg : Geometry} {x y x' y' i : Index} {c k : Nat}

/-! ### The offset inside a row -/

/-- `y is odd`, as arithmetic (41_addressing R90). -/
theorem rowReversed_eq (cfg : Geometry) (y : Index) :
    rowReversed cfg y = (cfg.xReversed ^^ (cfg.alternating && decide (y.toNat % 2 = 1))) := by
  simp [rowReversed, BitVec.getLsbD]

/-- Without reversal and alternation no row is reversed. -/
theorem rowReversed_of_plain (hx : cfg.xReversed = false) (ha : cfg.alternating = false) (y : Index) :
    rowReversed cfg y = false := by
  simp [rowReversed, hx, ha]

/-- The offset of column `c` inside row `y`: mirrored where the row is reversed (41_addressing R90). -/
def rowOffset (cfg : Geometry) (y : Index) (c : Nat) : Nat :=
  if rowReversed cfg y then cfg.ledsPerRow.toNat - 1 - c else c

@[simp] theorem rowOffset_of_reversed (h : rowReversed cfg y = true) (c : Nat) :
    rowOffset cfg y c = cfg.ledsPerRow.toNat - 1 - c := by
  simp [rowOffset, h]

@[simp] theorem rowOffset_of_not_reversed (h : rowReversed cfg y = false) (c : Nat) : rowOffset cfg y c = c := by
  simp [rowOffset, h]

/-- The physical index is the row's first index plus the offset inside the row. -/
theorem ledIndexFromXY_eq (cfg : Geometry) (x y : Index) :
    ledIndexFromXY cfg x y = y.toNat * cfg.ledsPerRow.toNat + rowOffset cfg y x.toNat := by
  cases h : rowReversed cfg y <;> simp [ledIndexFromXY, h]

/-- Mirroring stays in the row. -/
theorem rowOffset_lt (hc : c < cfg.ledsPerRow.toNat) : rowOffset cfg y c < cfg.ledsPerRow.toNat := by
  cases h : rowReversed cfg y
  · simpa [h] using hc
  · rw [rowOffset_of_reversed h]
    omega

/-- Mirroring twice gives the column back. -/
theorem rowOffset_rowOffset (hc : c < cfg.ledsPerRow.toNat) : rowOffset cfg y (rowOffset cfg y c) = c := by
  cases h : rowReversed cfg y
  · simp [h]
  · rw [rowOffset_of_reversed h, rowOffset_of_reversed h]
    omega

/-! ### The transform and its inverse -/

/-- The inverse of the transform: index `k` lies in row `k / L`, in the column at the offset `k % L` (41_addressing R95). -/
theorem ledIndexFromXY_eq_iff (hx : x < cfg.ledsPerRow) :
    ledIndexFromXY cfg x y = k ↔
      y.toNat = k / cfg.ledsPerRow.toNat ∧ x.toNat = rowOffset cfg y (k % cfg.ledsPerRow.toNat) := by
  have hc : x.toNat < cfg.ledsPerRow.toNat := BitVec.lt_def.1 hx
  have hL : 0 < cfg.ledsPerRow.toNat := by omega
  rw [ledIndexFromXY_eq]
  constructor
  · rintro rfl
    have ho : rowOffset cfg y x.toNat < cfg.ledsPerRow.toNat := rowOffset_lt hc
    rw [Nat.mul_comm, Nat.mul_add_div hL, Nat.div_eq_of_lt ho, Nat.mul_add_mod, Nat.mod_eq_of_lt ho, rowOffset_rowOffset hc]
    exact ⟨rfl, rfl⟩
  · rintro ⟨hy, hk⟩
    rw [hk, rowOffset_rowOffset (Nat.mod_lt k hL), hy, Nat.mul_comm, Nat.div_add_mod]

/-- Two coordinates with columns in the row and the same physical index are the same. -/
theorem ledIndexFromXY_inj (hx : x < cfg.ledsPerRow) (hx' : x' < cfg.ledsPerRow)
    (h : ledIndexFromXY cfg x y = ledIndexFromXY cfg x' y') : x = x' ∧ y = y' := by
  obtain ⟨hy, hc⟩ := (ledIndexFromXY_eq_iff hx).1 h
  obtain ⟨hy', hc'⟩ := (ledIndexFromXY_eq_iff hx').1 rfl
  obtain rfl : y = y' := BitVec.eq_of_toNat_eq (hy.trans hy'.symm)
  exact ⟨BitVec.eq_of_toNat_eq (hc.trans hc'.symm), rfl⟩

/-- A physical index lies in its row's block. -/
theorem ledIndexFromXY_mem_row (hx : x < cfg.ledsPerRow) (y : Index) :
    y.toNat * cfg.ledsPerRow.toNat ≤ ledIndexFromXY cfg x y ∧
    ledIndexFromXY cfg x y < y.toNat * cfg.ledsPerRow.toNat + cfg.ledsPerRow.toNat := by
  rw [ledIndexFromXY_eq]
  exact ⟨Nat.le_add_right .., Nat.add_lt_add_left (rowOffset_lt (BitVec.lt_def.1 hx)) _⟩

/-- Every index of a row's block is the physical index of one column of that row. -/
theorem exists_column (hL : 0 < cfg.ledsPerRow.toNat) (hy : y.toNat = k / cfg.ledsPerRow.toNat) :
    ∃ x : Index, x < cfg.ledsPerRow ∧ ledIndexFromXY cfg x y = k := by
  have ho : rowOffset cfg y (k % cfg.ledsPerRow.toNat) < cfg.ledsPerRow.toNat := rowOffset_lt (Nat.mod_lt k hL)
  obtain ⟨x, hx⟩ : ∃ x : Index, x.toNat = rowOffset cfg y (k % cfg.ledsPerRow.toNat) :=
    ⟨.ofNatLT _ (ho.trans cfg.ledsPerRow.isLt), rfl⟩
  have hlt : x < cfg.ledsPerRow := BitVec.lt_def.2 (hx ▸ ho)
  exact ⟨x, hlt, (ledIndexFromXY_eq_iff hlt).2 ⟨hy, hx⟩⟩

/-! ### Linear indices -/

/-- `XYfromLinear` answers the column in the row and the row whose row-major index is the given one (41_addressing R93). -/
theorem xyFromLinear_eq_iff (hL : 0 < cfg.ledsPerRow.toNat) :
    xyFromLinear cfg i = (x, y) ↔
      x < cfg.ledsPerRow ∧ i.toNat = y.toNat * cfg.ledsPerRow.toNat + x.toNat := by
  rw [xyFromLinear, Prod.mk.injEq, ← BitVec.toNat_inj, ← BitVec.toNat_inj, BitVec.toNat_umod, BitVec.toNat_udiv,
    BitVec.lt_def, and_comm, Nat.div_mod_unique hL, Nat.add_comm, Nat.mul_comm, and_comm, eq_comm (a := i.toNat)]

/-! ### Validity -/

/-- Where `PixAddr` is valid (41_addressing R94). -/
theorem exists_pixAddr_iff :
    (∃ k, pixAddr cfg x y = some k) ↔ x < cfg.ledsPerRow ∧ ledIndexFromXY cfg x y < cfg.numLeds.toNat := by
  simp [pixAddr_eq_some]

/-- The column check of `PixAddr` (41_addressing R94). -/
theorem pixAddr_of_column_ge (h : cfg.ledsPerRow ≤ x) : pixAddr cfg x y = none := if_pos h

/-- The index check of `PixAddr` (41_addressing R94). -/
theorem pixAddr_of_index_ge (h : cfg.numLeds.toNat ≤ ledIndexFromXY cfg x y) : pixAddr cfg x y = none :=
  Option.eq_none_iff_forall_ne_some.2 fun _ hk => (exists_pixAddr_iff.1 ⟨_, hk⟩).2.not_ge h

/-- In the partial last row the index check leaves the offsets below `numLeds % L`. -/
theorem ledIndexFromXY_lt_numLeds_iff (hy : y.toNat = cfg.numLeds.toNat / cfg.ledsPerRow.toNat) :
    ledIndexFromXY cfg x y < cfg.numLeds.toNat ↔
      rowOffset cfg y x.toNat < cfg.numLeds.toNat % cfg.ledsPerRow.toNat := by
  have hn := Nat.div_add_mod' cfg.numLeds.toNat cfg.ledsPerRow.toNat
  rw [ledIndexFromXY_eq, hy]
  omega

/-! ### The obligations -/

/-- Settles O24: a physical index determines its row and column by `ledIndexFromXY_eq_iff`, and every index has one by
`exists_column`. -/
theorem transformIsAPermutation : Obligations.TransformIsAPermutation := by
  intro cfg ⟨hL, _⟩
  refine ⟨fun x y hx => ledIndexFromXY_mem_row hx y, fun y k hlo hhi => ?row, fun k hk => ?rows,
    fun x y hx hy => ?inRows, fun x y x' y' k h h' => ?injective⟩
  case row =>
    have hy : y.toNat = k / cfg.ledsPerRow.toNat :=
      (Nat.div_eq_of_lt_le hlo (by rwa [Nat.succ_mul])).symm
    obtain ⟨x, hx, rfl⟩ := exists_column hL hy
    exact ⟨x, ⟨hx, rfl⟩, fun x' ⟨hx', h⟩ => (ledIndexFromXY_inj hx' hx h).1⟩
  case rows =>
    have hrow : k / cfg.ledsPerRow.toNat < cfg.numLeds.toNat / cfg.ledsPerRow.toNat := Nat.div_lt_of_lt_mul hk
    obtain ⟨y, hy⟩ : ∃ y : Index, y.toNat = k / cfg.ledsPerRow.toNat :=
      ⟨.ofNatLT _ ((hrow.trans_le (Nat.div_le_self ..)).trans cfg.numLeds.isLt), rfl⟩
    obtain ⟨x, hx, h⟩ := exists_column hL hy
    refine ⟨(x, y), ⟨hx, hy.trans_lt hrow, h⟩, fun ⟨x', y'⟩ ⟨hx', _, h'⟩ => ?_⟩
    exact Prod.ext_iff.2 (ledIndexFromXY_inj hx' hx (h'.trans h.symm))
  case inRows =>
    calc ledIndexFromXY cfg x y < (y.toNat + 1) * cfg.ledsPerRow.toNat := by
          rw [Nat.succ_mul]; exact (ledIndexFromXY_mem_row hx y).2
      _ ≤ cfg.ledsPerRow.toNat * (cfg.numLeds.toNat / cfg.ledsPerRow.toNat) := by
          rw [Nat.mul_comm]; exact Nat.mul_le_mul_left _ hy
  case injective =>
    obtain ⟨hx, -, hk⟩ := pixAddr_eq_some.1 h
    obtain ⟨hx', -, hk'⟩ := pixAddr_eq_some.1 h'
    exact ledIndexFromXY_inj hx hx' (hk.trans hk'.symm)

/-- Settles O25: in row `numLeds / L` the index check is one on the offset, which is the column or its mirror image. With
seven LEDs in reversed rows of three, only column 2 of the last row exists: linear index 6 is invalid and 8 valid. -/
theorem partialLastRowIsReachedFromItsOwnSide : Obligations.PartialLastRowIsReachedFromItsOwnSide := by
  refine ⟨fun cfg x y hg hy => ?_, fun cfg i x y hg hy hx hi => ?_, ⟨7, 3, true, false⟩, 6, 8, ?_⟩
  · rw [exists_pixAddr_iff, ledIndexFromXY_lt_numLeds_iff hy]
    refine and_congr_right fun hx => ?_
    rw [BitVec.lt_def] at hx
    cases hr : rowReversed cfg y
    · simp [hr]
    · rw [rowOffset_of_reversed hr, if_pos rfl]
      omega
  · rw [(xyFromLinear_eq_iff hg.1).2 ⟨hx, hi⟩]
  · exact ⟨by decide, by decide, by decide, by decide, 6, by decide⟩

/-- Settles O26: the linear index is `y * L + x`, the physical index `y * L` plus the offset. -/
theorem linearIndexHasItsClosedForm : Obligations.LinearIndexHasItsClosedForm := by
  intro cfg i x y hL hxy
  obtain ⟨hx, hi⟩ := (xyFromLinear_eq_iff hL).1 hxy
  have hplain : rowReversed cfg y = false → ledIndexFromXY cfg x y = i.toNat := fun hr => by
    rw [ledIndexFromXY_eq, rowOffset_of_not_reversed hr, hi]
  refine ⟨hplain, fun hr => ?mirrored, fun hxr halt => ?unreversed⟩
  case mirrored =>
    rw [BitVec.lt_def] at hx
    rw [ledIndexFromXY_eq, rowOffset_of_reversed hr, hi, Nat.mul_assoc]
    omega
  case unreversed =>
    have hidx : ledIndexFromXY cfg x y = i.toNat := hplain (rowReversed_of_plain hxr halt y)
    refine ⟨?_, fun k hk => ?_⟩
    · rw [exists_pixAddr_iff, hidx, BitVec.lt_def (x := i), and_iff_right hx]
    · obtain ⟨-, -, hk⟩ := pixAddr_eq_some.1 hk
      exact hk.symm.trans hidx

/-- Settles O22: the two checks in order, on the index with the parity of the row written as arithmetic. -/
theorem pixAddrChecksColumnThenIndex : Obligations.PixAddrChecksColumnThenIndex := by
  intro cfg x y
  refine ⟨fun h => pixAddr_of_column_ge (BitVec.le_def.2 h), fun hx k hk => ?_⟩
  have hidx : ledIndexFromXY cfg x y = k := by
    rw [ledIndexFromXY_eq, rowOffset, rowReversed_eq, hk]
  subst hidx
  exact ⟨pixAddr_of_index_ge, fun h => pixAddr_eq_some.2 ⟨BitVec.lt_def.2 hx, h, rfl⟩⟩

end Sys2Proof.Machine
end

section
/-! The channel datapath (42_pwm_lut R103 to R108). Each of its functions is one arithmetic operation on the values. -/

namespace Sys2Proof.Machine

variable {c c' s s' br : Byte}

/-! ### Truncation and expansion -/

/-- `Trunc5` is the floor of an eighth (42_pwm_lut R104). -/
@[simp] theorem trunc5_toNat (c : Byte) : (trunc5 c).toNat = c.toNat / 8 := by
  have hc := c.isLt
  rw [trunc5, BitVec.extractLsb'_toNat, Nat.shiftRight_eq_div_pow]
  omega

/-- `Expand8` is eight times the level (42_pwm_lut R105). -/
@[simp] theorem expand8_toNat (v : Level) : (expand8 v).toNat = v.toNat * 8 := by
  rw [expand8, BitVec.toNat_append, BitVec.toNat_ofNat, Nat.zero_mod, Nat.or_zero, Nat.shiftLeft_eq]

/-- The round trip of a byte clears its low three bits and keeps the others (42_pwm_lut R106). -/
theorem expand8_trunc5 (c : Byte) : expand8 (trunc5 c) = c &&& 0xF8#8 := by
  have hsplit : c.extractLsb' 3 5 ++ c.extractLsb' 0 3 = c :=
    (BitVec.extractLsb'_append_extractLsb'_eq_extractLsb' rfl).trans BitVec.extractLsb'_eq_self
  calc expand8 (trunc5 c) = (c.extractLsb' 3 5 &&& BitVec.allOnes 5) ++ (c.extractLsb' 0 3 &&& 0#3) := by
        rw [BitVec.and_allOnes, BitVec.and_zero, expand8, trunc5]
    _ = (c.extractLsb' 3 5 ++ c.extractLsb' 0 3) &&& (BitVec.allOnes 5 ++ 0#3) := BitVec.and_append.symm
    _ = c &&& 0xF8#8 := congrArg (· &&& 0xF8#8) hsplit

/-- The round trip of a level is the identity (42_pwm_lut R106). -/
theorem trunc5_expand8 (v : Level) : trunc5 (expand8 v) = v :=
  BitVec.extractLsb'_append_eq_left

/-! ### Scaling -/

/-- A product of two bytes, divided by 256, is at most 254. -/
theorem byte_mul_div_le (c s : Byte) : c.toNat * s.toNat / 256 ≤ 254 := by
  have hmul : c.toNat * s.toNat ≤ 255 * 255 := Nat.mul_le_mul (Nat.le_of_lt_succ c.isLt) (Nat.le_of_lt_succ s.isLt)
  omega

/-- `Scale8` loses no bit of the exact product's quotient (42_pwm_lut R107). -/
@[simp] theorem scale8_toNat (c s : Byte) : (scale8 c s).toNat = c.toNat * s.toNat / 256 :=
  Nat.mod_eq_of_lt ((byte_mul_div_le c s).trans_lt (by decide))

theorem scale8_comm (c s : Byte) : scale8 c s = scale8 s c := by
  rw [scale8, scale8, Nat.mul_comm]

theorem scale8_zero (c : Byte) : scale8 c 0#8 = 0#8 :=
  BitVec.eq_of_toNat_eq (by simp)

theorem scale8_le_left (c s : Byte) : scale8 c s ≤ c := by
  rw [BitVec.le_def, scale8_toNat]
  refine Nat.div_le_of_le_mul ?_
  rw [Nat.mul_comm]
  exact Nat.mul_le_mul_right _ s.isLt.le

/-- No factor is the identity: a channel that is not 0 gets smaller (42_pwm_lut R108). -/
theorem scale8_lt_left (hc : c ≠ 0#8) (s : Byte) : scale8 c s < c := by
  rw [BitVec.lt_def, scale8_toNat]
  refine Nat.div_lt_of_lt_mul ?_
  rw [Nat.mul_comm]
  exact Nat.mul_lt_mul_of_pos_right s.isLt (Nat.pos_of_ne_zero fun h => hc (BitVec.eq_of_toNat_eq h))

/-- The largest factor takes one off (42_pwm_lut R108). -/
theorem scale8_255_toNat (c : Byte) : (scale8 c 255#8).toNat = c.toNat - 1 := by
  have hc := c.isLt
  rw [scale8_toNat, BitVec.toNat_ofNat]
  omega

/-- Taking one off changes the floor of the eighth exactly at the non-zero multiples of 8 (42_pwm_lut R108). -/
theorem trunc5_scale8_255_ne_iff (c : Byte) : trunc5 (scale8 c 255#8) ≠ trunc5 c ↔ c ≠ 0#8 ∧ c.toNat % 8 = 0 := by
  rw [Ne, Ne, ← BitVec.toNat_inj, ← BitVec.toNat_inj, trunc5_toNat, trunc5_toNat, scale8_255_toNat, BitVec.toNat_ofNat]
  omega

theorem scale8_mono (hc : c ≤ c') (hs : s ≤ s') : scale8 c s ≤ scale8 c' s' := by
  rw [BitVec.le_def, scale8_toNat, scale8_toNat]
  exact Nat.div_le_div_right (Nat.mul_le_mul (BitVec.le_def.1 hc) (BitVec.le_def.1 hs))

/-! ### The brightness table -/

/-- The table is read at the high nibble, which is the sixteenth of the brightness (42_pwm_lut R103). -/
theorem brightnessToPwm_eq_get (rom : Vector Byte 16) {k : Fin 16} (hk : k.val = br.toNat / 16) :
    brightnessToPwm rom br = rom.get k := by
  refine congrArg rom.get (Fin.ext ?_)
  have hbr := br.isLt
  rw [BitVec.val_toFin, BitVec.extractLsb'_toNat, Nat.shiftRight_eq_div_pow, hk]
  omega

/-! ### The obligations -/

/-- Settles O28, by the value of `Scale8`; the laws for the second argument are those for the first, as `Scale8` is
symmetric. -/
theorem scalingLaws : Obligations.ScalingLaws := by
  refine ⟨fun c s => ⟨scale8_toNat c s, ?bound⟩, fun c s => ⟨scale8_zero c, ?zero⟩,
    fun c s => ⟨scale8_le_left c s, ?right, fun hc => scale8_lt_left hc s⟩, scale8_255_toNat, trunc5_scale8_255_ne_iff,
    fun _ _ _ _ => scale8_mono⟩
  case bound => rw [scale8_toNat]; exact byte_mul_div_le c s
  case zero => rw [scale8_comm]; exact scale8_zero s
  case right => rw [scale8_comm]; exact scale8_le_left s c

/-- Settles O27, by the values of `Trunc5` and `Expand8` and the two round trips. -/
theorem truncationRoundTrip : Obligations.TruncationRoundTrip :=
  ⟨trunc5_toNat, expand8_toNat, expand8_trunc5, trunc5_expand8⟩

/-- Settles O29: each of the three ranges has one sixteenth, 0, 8 or 15, whose entry is pinned. -/
theorem brightnessReadsTheHighNibble : Obligations.BrightnessReadsTheHighNibble := by
  refine ⟨fun rom br k hk => brightnessToPwm_eq_get rom hk, fun s br ⟨_, _, hzero, hmid, htop⟩ => ?_⟩
  have hbr := br.isLt
  refine ⟨fun hhi => ?_, fun hlo hhi => ?_, fun hlo => ?_⟩
  · rw [brightnessToPwm_eq_get (k := 0) _ (by omega), hzero]
  · rw [brightnessToPwm_eq_get (k := 8) _ (by omega), hmid]
  · rw [brightnessToPwm_eq_get (k := 15) _ (by omega), htop]

end Sys2Proof.Machine
end

section
/-! The pixel write commands (43_pixel_write R113 to R119). Every one of the five is `SETXY` at some coordinates with some
colour, and `SETXY` stores one truncated pixel or nothing. -/

namespace Sys2Proof.Machine

variable {s t : State} {i : Instr} {x y k : Index} {j : Nat} {r g b : Byte}

/-! ### `SETXY`, and the other four by it -/

/-- `SETXY` at an invalid address is a `nop` (43_pixel_write R113). -/
theorem exec_setxy_of_invalid (hp : s.phase = .ready) (h : pixAddr s.cfg x y = none) :
    exec (.setxy x y r g b) s = .next s := by
  rw [exec, execSetxy, whenReady_of_ready hp, storeColour_of_invalid h]

/-- `SETXY` at a valid address is one write of the truncated channels (43_pixel_write R113). -/
theorem exec_setxy_of_valid (hp : s.phase = .ready) (h : pixAddr s.cfg x y = some j) :
    exec (.setxy x y r g b) s = .next { s with pix := memWrite s.pix j ⟨trunc5 r, trunc5 g, trunc5 b⟩ } := by
  rw [exec, execSetxy, whenReady_of_ready hp, storeColour_of_valid h, truncPixel]

/-- `SET` is `SETXY` at the coordinates of its index (43_pixel_write R114). -/
theorem exec_setlin_eq_setxy (h : xyFromLinear s.cfg k = (x, y)) :
    exec (.setlin k r g b) s = exec (.setxy x y r g b) s := by
  simp only [exec, execSetlin, execSetxy, h]

/-- `SETSXY` is `SETXY` of the scaled channels (43_pixel_write R115). -/
theorem exec_setsxy_eq_setxy (f : Byte) :
    exec (.setsxy x y r g b f) s = exec (.setxy x y (scale8 r f) (scale8 g f) (scale8 b f)) s := rfl

/-- `SETDXY` is `SETSXY` with the scale `PWM4[brightness >> 4]` (43_pixel_write R116). -/
theorem exec_setdxy_eq_setsxy (br : Byte) :
    exec (.setdxy x y r g b br) s = exec (.setsxy x y r g b (brightnessToPwm s.pwm4 br)) s := rfl

/-- `SETD` is `SETDXY` at the coordinates of its index (43_pixel_write R117). -/
theorem exec_setd_eq_setdxy (h : xyFromLinear s.cfg k = (x, y)) (br : Byte) :
    exec (.setd k r g b br) s = exec (.setdxy x y r g b br) s := by
  simp only [exec, execSetd, execSetdxy, h]

/-! ### The frame (43_pixel_write R118) -/

/-- No command both writes and reads pixels. -/
theorem isWrite_eq_false_of_isRead (h : isRead i = true) : isWrite i = false := by
  cases i with
  | getxy | getlin => rfl
  | _ => cases h

/-- A write command that completes does so in `READY`, and stores one colour at its address. -/
theorem exec_write_cases (hw : isWrite i = true) (h : exec i s = .next t) :
    s.phase = .ready ∧ ∃ x y c, writeTarget s.cfg i = pixAddr s.cfg x y ∧ t = storeColour x y c s := by
  obtain ⟨_, _, _, _, rfl, -⟩ | ⟨_, _, _, _, rfl, -⟩ | ⟨-, hstore⟩ | ⟨hr, -⟩ | ⟨rfl, -⟩ | ⟨rfl, -⟩ | ⟨rfl, -⟩ :=
    exec_cases h
  · cases hw
  · cases hw
  · exact hstore
  · simp [isWrite_eq_false_of_isRead hr] at hw
  all_goals cases hw

/-- Storing at a valid address leaves every other pixel as it was. -/
theorem memRead_storeColour_of_ne (h : pixAddr s.cfg x y = some j) {m : Nat} (hm : m ≠ j) (c : Rgb) :
    memRead (storeColour x y c s).pix m = memRead s.pix m := by
  rw [storeColour_of_valid h]
  exact memRead_memWrite_of_ne hm ..

/-! ### The obligations -/

/-- Settles O35: a completed write is one `storeColour` at the command's address. -/
theorem writeCommandsChangeOnlyTheAddressedPixel : Obligations.WriteCommandsChangeOnlyTheAddressedPixel := by
  intro i s t hw h
  obtain ⟨-, x, y, c, haddr, rfl⟩ := exec_write_cases hw h
  rw [haddr]
  exact ⟨storeColour_eq x y c s, fun hnone => storeColour_of_invalid hnone c,
    fun _ hsome _ hne => memRead_storeColour_of_ne hsome hne c⟩

/-- Settles O36: the linear forms are the XY forms at the coordinates of the index, and by `xyFromLinear_eq_iff` the
coordinates of `y * L + x` are `(x, y)`. -/
theorem linearAndXyWritesAgree : Obligations.LinearAndXyWritesAgree := by
  refine ⟨fun i r g b br s => ⟨exec_setlin_eq_setxy rfl, exec_setd_eq_setdxy rfl br⟩,
    fun x y i r g b br s hx hi => ?_⟩
  have hL : 0 < s.cfg.ledsPerRow.toNat := (Nat.zero_le _).trans_lt (BitVec.lt_def.1 hx)
  have hxy : xyFromLinear s.cfg i = (x, y) := (xyFromLinear_eq_iff hL).2 ⟨hx, hi⟩
  exact ⟨(exec_setlin_eq_setxy hxy).symm, (exec_setd_eq_setdxy hxy br).symm⟩

/-- Settles O30, by the two cases of the address; the pixel reads back because the memory is canonical. -/
theorem setxyStoresTheTruncatedColour : Obligations.SetxyStoresTheTruncatedColour :=
  fun _ _ _ _ _ _ hp => ⟨exec_setxy_of_invalid hp,
    fun k hk => ⟨exec_setxy_of_valid hp hk, fun hwf => memRead_memWrite_self hwf k _⟩⟩

/-- Settles O31: the two cases of `SETXY` at the coordinates of the index. -/
theorem setStoresAtItsLogicalIndex : Obligations.SetStoresAtItsLogicalIndex := by
  intro i r g b s hp
  have hxy : exec (.setlin i r g b) s = exec (.setxy (i % s.cfg.ledsPerRow) (i / s.cfg.ledsPerRow) r g b) s :=
    exec_setlin_eq_setxy rfl
  rw [hxy]
  exact ⟨rfl, exec_setxy_of_invalid hp, fun _ => exec_setxy_of_valid hp⟩

/-- Settles O32: the two cases of `SETXY` with the scaled channels. -/
theorem setsxyStoresTheScaledColour : Obligations.SetsxyStoresTheScaledColour := by
  intro x y r g b f s hp
  rw [exec_setsxy_eq_setxy]
  exact ⟨exec_setxy_of_invalid hp, fun _ => exec_setxy_of_valid hp⟩

/-- Settles O33: `SETDXY` is `SETSXY` with the looked-up scale, so its two cases are those of O32. -/
theorem setdxyStoresTheDimmedColour : Obligations.SetdxyStoresTheDimmedColour := by
  rintro x y r g b br s _ hp rfl
  rw [exec_setdxy_eq_setsxy]
  exact setsxyStoresTheScaledColour x y r g b _ s hp

/-- Settles O34: `SETD` is `SETDXY` at the coordinates of its index, so its two cases are those of O33. -/
theorem setdStoresTheDimmedColourAtItsIndex : Obligations.SetdStoresTheDimmedColourAtItsIndex := by
  intro i r g b br s f hp hf
  have hxy : exec (.setd i r g b br) s = exec (.setdxy (i % s.cfg.ledsPerRow) (i / s.cfg.ledsPerRow) r g b br) s :=
    exec_setd_eq_setdxy rfl br
  rw [hxy]
  exact ⟨rfl, setdxyStoresTheDimmedColour _ _ r g b br s f hp hf⟩

end Sys2Proof.Machine
end

section
/-! The pixel read commands (44_pixel_read R125 to R128). `GET` is `GETXY` at the coordinates of its index, and `GETXY`
loads one expanded pixel or nothing. -/

namespace Sys2Proof.Machine

variable {s t : State} {i : Instr} {x y k : Index} {j : Nat}

/-! ### `GETXY`, and `GET` by it -/

/-- `GETXY` at an invalid address is a `nop` (44_pixel_read R125). -/
theorem exec_getxy_of_invalid (hp : s.phase = .ready) (h : pixAddr s.cfg x y = none) :
    exec (.getxy x y) s = .next s := by
  rw [exec, execGetxy, whenReady_of_ready hp, loadColour_of_invalid h]

/-- `GETXY` at a valid address delivers the expanded pixel (44_pixel_read R125). -/
theorem exec_getxy_of_valid (hp : s.phase = .ready) (h : pixAddr s.cfg x y = some j) :
    exec (.getxy x y) s = .next { s with rd := expandPixel (memRead s.pix j), rdWritten := true } := by
  rw [exec, execGetxy, whenReady_of_ready hp, loadColour_of_valid h]

/-- `GET` is `GETXY` at the coordinates of its index (44_pixel_read R126). -/
theorem exec_getlin_eq_getxy (h : xyFromLinear s.cfg k = (x, y)) : exec (.getlin k) s = exec (.getxy x y) s := by
  simp only [exec, execGetlin, execGetxy, h]

/-! ### The frame (44_pixel_read R128) -/

/-- A read command that completes does so in `READY`, and loads the colour at its address. -/
theorem exec_read_cases (hr : isRead i = true) (h : exec i s = .next t) :
    s.phase = .ready ∧ ∃ x y, readTarget s.cfg i = pixAddr s.cfg x y ∧ t = loadColour x y s := by
  obtain ⟨_, _, _, _, rfl, -⟩ | ⟨_, _, _, _, rfl, -⟩ | ⟨hw, -⟩ | ⟨-, hload⟩ | ⟨rfl, -⟩ | ⟨rfl, -⟩ | ⟨rfl, -⟩ :=
    exec_cases h
  · cases hr
  · cases hr
  · simp [isWrite_eq_false_of_isRead hr] at hw
  · exact hload
  all_goals cases hr

/-! ### Write, then read (44_pixel_read R127) -/

/-- A colour comes back from its pixel with the low three bits of each channel cleared (42_pwm_lut R106). -/
theorem expandPixel_truncPixel (c : Rgb) :
    expandPixel (truncPixel c) = ⟨c.r &&& 0xF8#8, c.g &&& 0xF8#8, c.b &&& 0xF8#8⟩ := by
  simp only [expandPixel, truncPixel, expand8_trunc5]

/-- `GETXY` at the address a colour was just written to delivers that colour truncated. -/
theorem exec_getxy_of_written (hp : s.phase = .ready) (hwf : Memory.wf s.pix) (h : pixAddr s.cfg x y = some j)
    (c : Rgb) :
    exec (.getxy x y) { s with pix := memWrite s.pix j (truncPixel c) } = .next { s with
      pix := memWrite s.pix j (truncPixel c)
      rd := ⟨c.r &&& 0xF8#8, c.g &&& 0xF8#8, c.b &&& 0xF8#8⟩
      rdWritten := true } := by
  refine (exec_getxy_of_valid (s := { s with pix := memWrite s.pix j (truncPixel c) }) hp h).trans ?_
  rw [memRead_memWrite_self hwf, expandPixel_truncPixel]

/-! ### The obligations -/

/-- Settles O41: all three pairs write and read through one valid address, as `SETSXY` is `SETXY` of the scaled channels
and the linear forms are the XY forms at the coordinates of the index. -/
theorem writeThenReadKeepsTheTopFiveBits : Obligations.WriteThenReadKeepsTheTopFiveBits := by
  intro s r g b f hp hwf
  refine ⟨fun x y k h => ⟨?xy, ?scaled⟩, fun i k h => ?linear⟩
  case xy =>
    exact ⟨_, _, exec_setxy_of_valid hp h, exec_getxy_of_written hp hwf h ⟨r, g, b⟩, rfl, rfl⟩
  case scaled =>
    exact ⟨_, _, (exec_setsxy_eq_setxy f).trans (exec_setxy_of_valid hp h),
      exec_getxy_of_written hp hwf h ⟨scale8 r f, scale8 g f, scale8 b f⟩, rfl, rfl⟩
  case linear =>
    exact ⟨_, _, (exec_setlin_eq_setxy rfl).trans (exec_setxy_of_valid hp h),
      (exec_getlin_eq_getxy rfl).trans (exec_getxy_of_written hp hwf h ⟨r, g, b⟩), rfl, rfl⟩

/-- Settles O39, by the two cases of the address. -/
theorem getxyDeliversTheExpandedPixel : Obligations.GetxyDeliversTheExpandedPixel :=
  fun _ _ _ hp => ⟨exec_getxy_of_invalid hp, fun _ => exec_getxy_of_valid hp⟩

/-- Settles O40: the two cases of `GETXY` at the coordinates of the index. -/
theorem getDeliversAtItsLogicalIndex : Obligations.GetDeliversAtItsLogicalIndex := by
  intro i s hp
  have hxy : exec (.getlin i) s = exec (.getxy (i % s.cfg.ledsPerRow) (i / s.cfg.ledsPerRow)) s :=
    exec_getlin_eq_getxy rfl
  rw [hxy]
  exact ⟨rfl, getxyDeliversTheExpandedPixel _ _ s hp⟩

/-- Settles O42: a completed read is one `loadColour` at the command's address, which changes `RD` at most. -/
theorem readCommandsDisturbNothing : Obligations.ReadCommandsDisturbNothing := by
  intro i s t hr h
  obtain ⟨-, x, y, haddr, rfl⟩ := exec_read_cases hr h
  rw [haddr]
  exact ⟨loadColour_eq x y s, loadColour_pix s x y, loadColour_of_invalid⟩

end Sys2Proof.Machine
end

section
/-! The wire format (45_bitstream R132 to R136): the bytes of a frame by their place in it. -/

namespace Sys2Proof.Machine

variable {rom : Vector Byte 32} {m : PixMem} {n i j : Nat}

/-- A symbol is one of the two serial bytes (45_bitstream R132). -/
theorem sym_eq_or (bit : Bool) : sym bit = 0x7E#8 ∨ sym bit = 0x70#8 := by
  cases bit with
  | false => exact .inr rfl
  | true => exact .inl rfl

/-- The most significant bit is sent first (45_bitstream R133). -/
theorem getElem?_sym8 (d : Byte) (hj : j < 8) : (sym8 d)[j]? = some (sym (d.getLsbD (7 - j))) := by
  interval_cases j <;> rfl

/-- A channel's eight symbols stand at its place in the order green, red, blue (45_bitstream R135). -/
theorem getElem?_pixelBytes (p : Pixel) (ch : Channel) (hj : j < 8) :
    (pixelBytes rom p)[8 * channelNumber ch + j]? = some (sym ((duty rom (channelLevel p ch)).getLsbD (7 - j))) := by
  rw [← getElem?_sym8 _ hj, pixelBytes_eq]
  cases ch with
  | green =>
    rw [List.append_assoc, List.getElem?_append_left (by simpa [channelNumber] using hj)]
    simp [channelNumber, channelLevel]
  | red =>
    rw [List.append_assoc, List.getElem?_append_right (by simp [channelNumber]),
      List.getElem?_append_left (by simpa [channelNumber] using hj)]
    simp [channelNumber, channelLevel]
  | blue =>
    rw [List.getElem?_append_right (by simp [channelNumber])]
    simp [channelNumber, channelLevel]

/-- A frame has 24 bytes a pixel (45_bitstream R136). -/
@[simp] theorem length_frameBytes : (frameBytes rom m n).length = 24 * n := by
  induction n with
  | zero => rfl
  | succ n ih =>
    rw [frameBytes_succ, List.length_append, ih, length_pixelBytes]
    rfl

/-- Pixel `i` takes the 24 bytes from byte `24 * i` on (45_bitstream R136). -/
theorem getElem?_frameBytes (hi : i < n) (hj : j < 24) :
    (frameBytes rom m n)[24 * i + j]? = (pixelBytes rom (memRead m i))[j]? := by
  induction n with
  | zero => omega
  | succ n ih =>
    rw [frameBytes_succ]
    obtain hlt | rfl : i < n ∨ i = n := by omega
    · rw [List.getElem?_append_left (by rw [length_frameBytes]; omega), ih hlt]
    · rw [List.getElem?_append_right (by rw [length_frameBytes]; omega), length_frameBytes, Nat.add_sub_cancel_left]

/-- There are three channels. -/
theorem channelNumber_lt (ch : Channel) : channelNumber ch < 3 := by cases ch <;> decide

/-- Each of the three numbers is a channel's. -/
theorem exists_channelNumber_eq (hi : i < 3) : ∃ ch, channelNumber ch = i := by
  interval_cases i
  · exact ⟨.green, rfl⟩
  · exact ⟨.red, rfl⟩
  · exact ⟨.blue, rfl⟩

/-- The field a channel sends, by the channel's number (45_bitstream R143). -/
theorem channelLevel_eq_ite (p : Pixel) (ch : Channel) : channelLevel p ch =
    if channelNumber ch = 0 then p.green else if channelNumber ch = 1 then p.red else p.blue := by
  cases ch <;> rfl

/-- The byte of a frame that sends bit `7 - j` of one channel of pixel `i` (45_bitstream R136). -/
theorem getElem?_frameBytes_bit (ch : Channel) (hi : i < n) (hj : j < 8) :
    (frameBytes rom m n)[24 * i + (8 * channelNumber ch + j)]? =
      some (sym ((duty rom (channelLevel (memRead m i) ch)).getLsbD (7 - j))) := by
  have hch := channelNumber_lt ch
  rw [getElem?_frameBytes hi (by omega), getElem?_pixelBytes _ _ hj]

/-- A frame holds the two symbols only (45_bitstream R137 a). -/
theorem eq_or_of_mem_frameBytes {b : Byte} (h : b ∈ frameBytes rom m n) : b = 0x7E#8 ∨ b = 0x70#8 := by
  obtain ⟨i, -, hpix⟩ := List.mem_flatMap.1 h
  obtain ⟨ch, -, hsym⟩ := List.mem_flatMap.1 hpix
  obtain ⟨bit, rfl⟩ : ∃ bit, b = sym bit := by
    simp only [sym8, List.mem_cons, List.not_mem_nil, or_false] at hsym
    obtain h | h | h | h | h | h | h | h := hsym <;> exact ⟨_, h⟩
  exact sym_eq_or bit

/-- Settles O45: byte `k` sends bit `7 - k % 8` of channel `k / 8 % 3` of pixel `k / 24`. -/
theorem frameByteFormula : Obligations.FrameByteFormula := by
  refine fun s => ⟨length_frameBytes, fun k hk => ?_⟩
  obtain ⟨ch, hch⟩ := exists_channelNumber_eq (Nat.mod_lt (k / 8) (by decide : 3 > 0))
  have hplace : k = 24 * (k / 24) + (8 * channelNumber ch + k % 8) := by omega
  have hpix : k / 24 < s.cfg.numLeds.toNat := Nat.div_lt_of_lt_mul hk
  have hbyte := getElem?_frameBytes_bit (rom := s.pwm5) (m := s.pix) ch hpix (Nat.mod_lt k (by decide : 8 > 0))
  rw [← hplace, channelLevel_eq_ite, hch] at hbyte
  exact hbyte

end Sys2Proof.Machine
end

section
/-! `SHOW` and the encoder's steps (45_bitstream R131, R142 to R146). -/

namespace Sys2Proof.Machine

variable {s t : State} {i : Instr} {b : Byte}

/-! ### `SHOW` -/

/-- With a link that completes each byte at once, `SHOW` is the big step (45_bitstream R131). -/
theorem exec_showFrame_of_prompt (hp : s.phase = .ready) (hl : s.link = .prompt) :
    exec .showFrame s = .next (sendFrame s) := by
  rw [exec, execShow, whenReady_of_ready hp, hl]

/-- With a link that reports its bytes, `SHOW` starts the frame (45_bitstream R142). -/
theorem exec_showFrame_of_stepped (hp : s.phase = .ready) (hl : s.link ≠ .prompt) :
    exec .showFrame s = .next (startFrame s) := by
  rw [exec, execShow, whenReady_of_ready hp]
  cases h : s.link with
  | prompt => exact absurd h hl
  | ready | waiting => rfl

/-- The big step emits the whole frame inside one pair (45_bitstream R131). -/
@[simp] theorem sendFrame_trace (s : State) :
    (sendFrame s).trace = s.trace ++ .csEnter :: s.frame.map .byte ++ [.csExit] := by
  simp [sendFrame_eq, State.frame]

/-- What a command adds to the trace: nothing, the start of a frame, or a whole frame (00_scope R7). -/
theorem exec_trace_cases (h : exec i s = .next t) :
    t.trace = s.trace ∨ t.trace = s.trace ++ [.csEnter] ∨
      t.trace = s.trace ++ .csEnter :: s.frame.map .byte ++ [.csExit] := by
  obtain ⟨_, _, _, _, -, -, -, rfl⟩ | ⟨_, _, _, _, -, -, -, rfl⟩ | ⟨-, -, _, _, _, -, rfl⟩ | ⟨-, -, _, _, -, rfl⟩ |
    ⟨-, -, rfl⟩ | ⟨-, -, -, rfl⟩ | ⟨-, -, -, rfl⟩ := exec_cases h <;> simp

/-! ### The advance of the cursor (45_bitstream R145) -/

/-- The next bit. -/
theorem advance_of_bit (hbi : s.cursor.bi ≠ 7#3) :
    advance s = { s with cursor := { s.cursor with bi := s.cursor.bi + 1#3 } } := by
  have hlt : s.cursor.bi.toNat < 7 := by bv_omega
  simp only [advance, hlt, if_true]

/-- The next channel. -/
theorem advance_of_channel (hbi : s.cursor.bi = 7#3) {ch : Channel} (hch : nextChannel s.cursor.ch = some ch) :
    advance s = { s with cursor := ⟨s.cursor.pi, ch, 0#3, channelLoad s s.cursor.pi ch⟩ } := by
  simp [advance, hbi, hch]

/-- The next pixel. -/
theorem advance_of_pixel (hbi : s.cursor.bi = 7#3) (hch : s.cursor.ch = .blue)
    (hpi : s.cursor.pi.toNat + 1 < s.cfg.numLeds.toNat) :
    advance s = { s with
      cursor := ⟨s.cursor.pi + 1#16, .green, 0#3, channelLoad s (s.cursor.pi + 1#16) .green⟩ } := by
  simp [advance, hbi, hch, nextChannel, Nat.lt_sub_of_add_lt hpi]

/-- After the last pixel the frame is sent. -/
theorem advance_of_last (hbi : s.cursor.bi = 7#3) (hch : s.cursor.ch = .blue)
    (hpi : s.cfg.numLeds.toNat ≤ s.cursor.pi.toNat + 1) :
    advance s = { s with cursor := { s.cursor with ch := .green, bi := 0#3 }, frameSent := true } := by
  have hlast : ¬ s.cursor.pi.toNat < s.cfg.numLeds.toNat - 1 := by omega
  simp [advance, hbi, hch, nextChannel, hlast]

/-- The index of an existing next pixel does not wrap. -/
theorem index_succ_toNat {pi n : Index} (h : pi.toNat + 1 < n.toNat) : (pi + 1#16).toNat = pi.toNat + 1 := by
  bv_omega

/-! ### Steps inside a frame -/

/-- While the link can take a byte and no reset is due, the encoder makes the step. -/
theorem step_of_encoder (hb : s.busy = true) (hl : s.link ≠ .waiting) (hr : s.inputs.head? ≠ some .reset) :
    step s = .next (encoderStep s) := by
  simp [step_of_busy hr hb, frameStep, hl]

/-- While bits are left, that is a bit step and its advance (45_bitstream R144, R145). -/
theorem step_of_bitsLeft (hb : s.busy = true) (hl : s.link ≠ .waiting) (hr : s.inputs.head? ≠ some .reset)
    (hf : s.frameSent = false) : step s = .next (advance (bitStep s)) := by
  simp [step_of_encoder hb hl hr, encoderStep, hf]

/-- Once every bit is sent, it is the end of the frame (45_bitstream R146). -/
theorem step_of_frameSent (hb : s.busy = true) (hl : s.link ≠ .waiting) (hr : s.inputs.head? ≠ some .reset)
    (hf : s.frameSent = true) : step s = .next (closeFrame s) := by
  simp [step_of_encoder hb hl hr, encoderStep, hf]

/-- While the link has a byte, its report is taken (45_bitstream R148). -/
theorem step_of_serialDone (hb : s.busy = true) (hl : s.link = .waiting) {rest : List Input}
    (hi : s.inputs = .serialDone :: rest) : step s = .next { s with inputs := rest, link := .ready } := by
  simp [step_of_busy (s := s) (by simp [hi]) hb, frameStep, hl, frameWait, hi, linkDone]

/-- While the link has a byte, a step that takes no reset ends no frame and emits nothing (45_bitstream R146). -/
theorem step_of_waiting_keeps (hb : s.busy = true) (hl : s.link = .waiting) (hr : takesReset s = false)
    (h : step s = .next t) : t.busy = true ∧ t.trace = s.trace := by
  cases step_effect h with
  | reset _ hi _ => simp [resetDue, hi] at hr
  | port _ hb' | command hb' | setup hb' | idle hb' => simp [hb] at hb'
  | encoder _ hl' => exact absurd hl hl'
  | hold _ _ _ _ _ _ ht => simp [ht, hb]
  | frame _ _ he => rw [he.eq_withInputsLink]; exact ⟨hb, rfl⟩

/-- What an encoder step adds to the trace: the end of the frame, or one symbol. -/
theorem encoderStep_trace_cases (s : State) :
    (encoderStep s).trace = s.trace ++ [.csExit] ∨ ∃ bit, (encoderStep s).trace = s.trace ++ [.byte (sym bit)] := by
  obtain ⟨-, h⟩ | ⟨-, h⟩ := encoderStep_cases s
  · exact .inl (by rw [h, closeFrame_trace])
  · exact .inr ⟨_, by rw [h, advance_trace, bitStep_trace]⟩

/-! ### The bytes emitted (45_bitstream R132) -/

/-- A command emits the two symbols only. -/
theorem exec_emits_symbols (h : exec i s = .next t) (hb : .byte b ∈ t.trace) :
    .byte b ∈ s.trace ∨ b = 0x7E#8 ∨ b = 0x70#8 := by
  obtain ht | ht | ht := exec_trace_cases h
  · exact .inl (ht ▸ hb)
  · exact .inl (by simpa [ht] using hb)
  · have hmem : .byte b ∈ s.trace ∨ b ∈ s.frame := by simpa [ht] using hb
    exact hmem.imp_right eq_or_of_mem_frameBytes

/-- An encoder step emits the two symbols only. -/
theorem encoderStep_emits_symbols (hb : .byte b ∈ (encoderStep s).trace) :
    .byte b ∈ s.trace ∨ b = 0x7E#8 ∨ b = 0x70#8 := by
  obtain ht | ⟨bit, ht⟩ := encoderStep_trace_cases s
  · exact .inl (by simpa [ht] using hb)
  · have hmem : .byte b ∈ s.trace ∨ b = sym bit := by simpa [ht] using hb
    exact hmem.imp_right (by rintro rfl; exact sym_eq_or bit)

/-! ### The obligations -/

/-- Settles O46, by the cases of a step: only a command and the encoder emit, and both emit symbols. -/
theorem onlyTheTwoSymbolsAreEmitted : Obligations.OnlyTheTwoSymbolsAreEmitted := by
  refine ⟨rfl, rfl, fun s t b h hb => ?_⟩
  cases step_effect h with
  | reset _ _ ht => simp [ht] at hb
  | port _ _ _ _ _ _ he => exact exec_emits_symbols (s := { s with cmd := none }) he hb
  | command _ _ _ rest _ _ _ he => exact exec_emits_symbols (s := { s with inputs := rest }) he hb
  | setup _ _ _ _ _ ht => exact .inl (by simpa [ht] using hb)
  | idle _ _ he => rw [he.eq_withInputsLink] at hb; exact .inl hb
  | encoder _ _ _ ht => exact encoderStep_emits_symbols (ht ▸ hb)
  | hold _ _ _ _ _ _ ht => exact .inl (by simpa [ht] using hb)
  | frame _ _ he => rw [he.eq_withInputsLink] at hb; exact .inl hb

/-- Settles O44: the big step's trace is the frame, pixel by pixel, and `sendFrame_eq` is its frame condition. -/
theorem showSendsTheFrame : Obligations.ShowSendsTheFrame := by
  refine fun s => ⟨exec_of_empty rfl, fun hp hl => ⟨sendFrame s, exec_showFrame_of_prompt hp hl, ?_, rfl⟩⟩
  rw [sendFrame_trace, State.frame, frameBytes, List.map_flatMap]
  simp only [pixelBytes_eq, duty]

/-- Settles O50: `SHOW` starts the frame, and the cursor's load is the duty cycle of pixel 0's green field. -/
theorem steppedShowStartsTheFrame : Obligations.SteppedShowStartsTheFrame :=
  fun _ hp hl => exec_showFrame_of_stepped hp hl

/-- Settles O51: the step is `advance` after `bitStep`, and the clauses are the cases of `advance`. -/
theorem encoderStepSendsOneBit : Obligations.EncoderStepSendsOneBit := by
  intro s hb hl hf hr
  refine ⟨_, step_of_bitsLeft hb (by simp [hl]) hr hf, ?frame, fun hbi => ?bit, fun hbi hch => ?red, fun hbi hch => ?blue,
    fun hbi hch hpi => ?pixel, fun hbi hch hpi => ?last⟩
  case frame =>
    have hlink : linkTake s.link = .waiting := by rw [hl]; rfl
    rw [← hlink]
    exact advance_eq (bitStep s)
  case bit =>
    rw [advance_of_bit (s := bitStep s) hbi]
    exact ⟨hf, rfl⟩
  case red =>
    rw [advance_of_channel (s := bitStep s) hbi (ch := .red) (congrArg nextChannel hch)]
    exact ⟨hf, rfl⟩
  case blue =>
    rw [advance_of_channel (s := bitStep s) hbi (ch := .blue) (congrArg nextChannel hch)]
    exact ⟨hf, rfl⟩
  case pixel =>
    rw [advance_of_pixel (s := bitStep s) hbi hch hpi, ← index_succ_toNat hpi]
    exact ⟨hf, rfl⟩
  case last =>
    rw [advance_of_last (s := bitStep s) hbi hch hpi]
    exact ⟨rfl, rfl⟩

/-- Settles O52: the end is the step of `closeFrame`; while the link has a byte the step only takes an input. -/
theorem frameEndsWhenTheLinkIsDone : Obligations.FrameEndsWhenTheLinkIsDone :=
  ⟨fun s hb hl hf hr => ⟨closeFrame s, step_of_frameSent hb (by simp [hl]) hr hf, rfl, rfl⟩,
    fun _ _ hb hl hr h => step_of_waiting_keeps hb hl hr h⟩

end Sys2Proof.Machine
end

section
/-! The small steps give the big step (45_bitstream R147). The encoder's place in the frame is `sentBytes`: with a well-formed
cursor each bit step sends the byte at that place and moves it on by one. -/

namespace Sys2Proof.Machine

variable {s t : State}

/-- While bits are left, the encoder's place is read off its cursor. -/
theorem sentBytes_of_bitsLeft (hf : s.frameSent = false) :
    s.sentBytes = 24 * s.cursor.pi.toNat + 8 * channelNumber s.cursor.ch + s.cursor.bi.toNat := by
  simp [State.sentBytes, hf]

/-- While bits are left, bytes of the frame are left. -/
theorem sentBytes_lt (hf : s.frameSent = false) (hc : s.cursorWf) : s.sentBytes < 24 * s.cfg.numLeds.toNat := by
  obtain ⟨hpi, -⟩ := hc
  have hch := channelNumber_lt s.cursor.ch
  have hbi := s.cursor.bi.isLt
  rw [sentBytes_of_bitsLeft hf]
  omega

/-- With every bit sent, every byte of the frame is. -/
theorem sentBytes_of_frameSent (hf : s.frameSent = true) : s.sentBytes = 24 * s.cfg.numLeds.toNat := by
  simp [State.sentBytes, hf]

/-- With a well-formed cursor, once every byte of the frame is sent, every bit is. -/
theorem frameSent_of_sentBytes (hc : s.frameSent = false → s.cursorWf)
    (h : s.sentBytes = 24 * s.cfg.numLeds.toNat) : s.frameSent = true := by
  by_contra hf
  rw [Bool.not_eq_true] at hf
  exact (sentBytes_lt hf (hc hf)).ne h

/-- `SR[7]` is the bit whose symbol is the frame's next byte (45_bitstream R144). -/
theorem getElem?_frame_sentBytes (hf : s.frameSent = false) (hc : s.cursorWf) :
    s.frame[s.sentBytes]? = some (sym (s.cursor.sr.getLsbD 7)) := by
  obtain ⟨hpi, hsr⟩ := hc
  have hbi : s.cursor.bi.toNat < 8 := s.cursor.bi.isLt
  have hbit : s.cursor.sr.getLsbD 7 = (channelLoad s s.cursor.pi s.cursor.ch).getLsbD (7 - s.cursor.bi.toNat) := by
    rw [hsr, BitVec.getLsbD_shiftLeft]
    simp [show ¬ 7 < s.cursor.bi.toNat by omega]
  rw [hbit, sentBytes_of_bitsLeft hf, Nat.add_assoc]
  exact getElem?_frameBytes_bit s.cursor.ch hpi hbi

/-- The channel after this one has the next number (45_bitstream R145). -/
theorem channelNumber_nextChannel {ch ch' : Channel} (h : nextChannel ch = some ch') :
    channelNumber ch' = channelNumber ch + 1 := by
  cases ch with
  | green | red => cases h; rfl
  | blue => cases h

/-- Blue is the last channel. -/
theorem eq_blue_of_nextChannel {ch : Channel} (h : nextChannel ch = none) : ch = .blue := by
  cases ch with
  | blue => rfl
  | green | red => cases h

/-- A channel just loaded is well formed: none of its bits is sent. -/
theorem cursorWf_of_load {pi : Index} (ch : Channel) (hpi : pi.toNat < s.cfg.numLeds.toNat) :
    { s with cursor := ⟨pi, ch, 0#3, channelLoad s pi ch⟩ }.cursorWf :=
  ⟨hpi, (BitVec.shiftLeft_zero _).symm⟩

/-- A bit step and its advance move the encoder's place in the frame on by one and keep the cursor well formed
(45_bitstream R144, R145). -/
theorem advance_bitStep_place (hf : s.frameSent = false) (hc : s.cursorWf) :
    (advance (bitStep s)).sentBytes = s.sentBytes + 1 ∧
    ((advance (bitStep s)).frameSent = false → (advance (bitStep s)).cursorWf) := by
  obtain ⟨hpi, hsr⟩ := hc
  have hplace := sentBytes_of_bitsLeft hf
  by_cases hbi : s.cursor.bi = 7#3
  case neg =>
    have hnext : (s.cursor.bi + 1#3).toNat = s.cursor.bi.toNat + 1 := by bv_omega
    rw [advance_of_bit (s := bitStep s) hbi]
    refine ⟨Eq.trans (sentBytes_of_bitsLeft (by exact hf)) ?_, fun _ => ⟨hpi, ?_⟩⟩
    · show 24 * s.cursor.pi.toNat + 8 * channelNumber s.cursor.ch + (s.cursor.bi + 1#3).toNat = _
      omega
    · show s.cursor.sr <<< 1 = channelLoad s s.cursor.pi s.cursor.ch <<< (s.cursor.bi + 1#3).toNat
      rw [hnext, BitVec.shiftLeft_add, ← hsr]
  case pos =>
    have hbi7 : s.cursor.bi.toNat = 7 := by rw [hbi]; rfl
    cases hch : nextChannel s.cursor.ch with
    | some ch =>
      rw [advance_of_channel (s := bitStep s) hbi hch]
      refine ⟨Eq.trans (sentBytes_of_bitsLeft (by exact hf)) ?_, fun _ => cursorWf_of_load (s := bitStep s) ch hpi⟩
      show 24 * s.cursor.pi.toNat + 8 * channelNumber ch + 0 = _
      rw [channelNumber_nextChannel hch]
      omega
    | none =>
      have hblue := eq_blue_of_nextChannel hch
      rw [hbi7, hblue, channelNumber] at hplace
      obtain hmore | hlast := Nat.lt_or_ge (s.cursor.pi.toNat + 1) s.cfg.numLeds.toNat
      · have hnext := index_succ_toNat hmore
        rw [advance_of_pixel (s := bitStep s) hbi hblue hmore]
        refine ⟨Eq.trans (sentBytes_of_bitsLeft (by exact hf)) ?_,
          fun _ => cursorWf_of_load (s := bitStep s) .green (hnext ▸ hmore)⟩
        show 24 * (s.cursor.pi + 1#16).toNat + 0 + 0 = _
        omega
      · rw [advance_of_last (s := bitStep s) hbi hblue hlast, sentBytes_of_frameSent rfl]
        refine ⟨?_, nofun⟩
        show 24 * s.cfg.numLeds.toNat = _
        omega

/-! ### One byte, sent and reported done -/

/-- The state once the next byte is sent and reported done, before `rest` (45_bitstream R144, R145, R148). -/
def byteDone (rest : List Input) (s : State) : State := { advance (bitStep s) with inputs := rest, link := .ready }

@[simp] theorem byteDone_cfg (rest : List Input) : (byteDone rest s).cfg = s.cfg := by simp [byteDone]
@[simp] theorem byteDone_busy (rest : List Input) : (byteDone rest s).busy = s.busy := by simp [byteDone]
@[simp] theorem byteDone_frame (rest : List Input) : (byteDone rest s).frame = s.frame := by simp [byteDone, State.frame]

/-- One byte done moves the encoder's place on by one. -/
theorem byteDone_sentBytes (hf : s.frameSent = false) (hc : s.cursorWf) (rest : List Input) :
    (byteDone rest s).sentBytes = s.sentBytes + 1 := (advance_bitStep_place hf hc).1

/-- One byte done keeps the cursor well formed. -/
theorem byteDone_cursorWf (hf : s.frameSent = false) (hc : s.cursorWf) (rest : List Input) :
    (byteDone rest s).frameSent = false → (byteDone rest s).cursorWf := (advance_bitStep_place hf hc).2

/-- After one byte done, the bytes left end the frame in the state in which, before it, it and they do. -/
theorem closeFrame_emit_byteDone (hl : s.link = .ready) (hf : s.frameSent = false) (hc : s.cursorWf)
    (rest ins : List Input) :
    closeFrame (emit ((s.frame.drop (s.sentBytes + 1)).map .byte) { byteDone ins s with inputs := rest }) =
      closeFrame (emit ((s.frame.drop s.sentBytes).map .byte) { s with inputs := rest }) := by
  obtain ⟨hlt, hbyte⟩ := List.getElem?_eq_some_iff.1 (getElem?_frame_sentBytes hf hc)
  rw [List.drop_eq_getElem_cons hlt, hbyte]
  simp [closeFrame_eq, emit, byteDone, hl]

/-! ### Runs -/

/-- A run of any machine begins with one step. -/
theorem hostRun_succ_of_step {M : Host.Core} {s t : M.State} (h : M.step s = .next t) (k : Nat) :
    M.run (k + 1) s = M.run k t := by
  simp only [Host.Core.run, h]

/-- A run of the block begins with one step. -/
theorem run_succ_of_step (h : step s = .next t) (k : Nat) : Sys2Proof.core.run (k + 1) s = Sys2Proof.core.run k t :=
  hostRun_succ_of_step (M := Sys2Proof.core) h k

/-- With its report due, a byte of the frame takes two steps: the bit step and the report (45_bitstream R144, R148). -/
theorem run_byteDone {rest : List Input} (hb : s.busy = true) (hl : s.link = .ready) (hf : s.frameSent = false)
    (hi : s.inputs = .serialDone :: rest) (k : Nat) :
    Sys2Proof.core.run (k + 2) s = Sys2Proof.core.run k (byteDone rest s) := by
  have hsend : step s = .next (advance (bitStep s)) := step_of_bitsLeft hb (by simp [hl]) (by simp [hi]) hf
  have htaken : (advance (bitStep s)).link = .waiting := by simp [hl, linkTake]
  have hdone := step_of_serialDone (s := advance (bitStep s)) (by simpa using hb) htaken (by simpa using hi)
  exact (run_succ_of_step hsend _).trans (run_succ_of_step hdone _)

/-- From a place in the frame, with a report for each byte left, the rest of the frame is sent and the frame ends, two
steps a byte and one for the end (45_bitstream R144 to R148). -/
theorem run_restOfFrame {k : Nat} {rest : List Input} (hrest : rest.head? ≠ some .reset) (hb : s.busy = true)
    (hl : s.link = .ready) (hc : s.frameSent = false → s.cursorWf) (hk : s.sentBytes + k = 24 * s.cfg.numLeds.toNat)
    (hi : s.inputs = List.replicate k .serialDone ++ rest) :
    Sys2Proof.core.run (2 * k + 1) s =
      .next (closeFrame (emit ((s.frame.drop s.sentBytes).map .byte) { s with inputs := rest })) := by
  induction k generalizing s with
  | zero =>
    have hi' : s.inputs = rest := hi
    subst hi'
    have hlen : s.frame.length ≤ s.sentBytes := by rw [State.frame, length_frameBytes, ← hk, Nat.add_zero]
    have hend := step_of_frameSent hb (by simp [hl]) hrest (frameSent_of_sentBytes hc hk)
    rw [List.drop_eq_nil_of_le hlen]
    refine (run_succ_of_step hend 0).trans ?_
    simp [Host.Core.run, emit]
  | succ k ih =>
    have hf : s.frameSent = false := by
      by_contra hf
      have hall := sentBytes_of_frameSent (by simpa using hf)
      omega
    have hplace := byteDone_sentBytes hf (hc hf) (List.replicate k .serialDone ++ rest)
    have hleft : (byteDone (List.replicate k .serialDone ++ rest) s).sentBytes + k = 24 * s.cfg.numLeds.toNat := by omega
    have hrun := ih (s := byteDone (List.replicate k .serialDone ++ rest) s) ((byteDone_busy _).trans hb) rfl
      (byteDone_cursorWf hf (hc hf) _) (by rw [hleft, byteDone_cfg]) rfl
    rw [hplace, byteDone_frame, closeFrame_emit_byteDone hl hf (hc hf)] at hrun
    exact (run_byteDone hb hl hf hi _).trans hrun

/-- From the start of a frame, with a report for each of its bytes, the small steps end in the big step's state
(45_bitstream R147). -/
theorem run_startFrame {rest : List Input} (hrest : rest.head? ≠ some .reset) (hl : s.link = .ready)
    (hn : 0 < s.cfg.numLeds.toNat) (hi : s.inputs = List.replicate (24 * s.cfg.numLeds.toNat) .serialDone ++ rest) :
    Sys2Proof.core.run (2 * (24 * s.cfg.numLeds.toNat) + 1) (startFrame s) =
      .next (sendFrame { s with inputs := rest }) := by
  have hplace : (startFrame s).sentBytes = 0 := rfl
  have hframe : (startFrame s).frame = s.frame := rfl
  have hrun := run_restOfFrame (s := startFrame s) hrest rfl hl (fun _ => cursorWf_of_load .green hn)
    (by rw [hplace, Nat.zero_add, startFrame_cfg]) hi
  rw [hplace, hframe, List.drop_zero] at hrun
  rw [hrun]
  simp [closeFrame_eq, startFrame_eq, sendFrame_eq, emit, State.frame]

/-- Settles O53: the step that accepts `SHOW` starts the frame, and `run_startFrame` is the rest. -/
theorem smallStepsEqualTheBigStep : Obligations.SmallStepsEqualTheBigStep := by
  intro s rest hp hlegal hb hc hl hrest hi
  obtain ⟨hrow, hle⟩ := hlegal
  refine ⟨_, exec_showFrame_of_prompt hp rfl, ?_⟩
  have hdec : decode (encode .showFrame) = .ok .showFrame := by decide
  have hstart : step s = .next (startFrame
      { s with inputs := List.replicate (24 * s.cfg.numLeds.toNat) .serialDone ++ rest }) := by
    rw [step_of_idle (by simp [hi]) hb, commandStep_of_presented hc hi, acceptWord_of_decode hdec]
    exact exec_showFrame_of_stepped hp (by simp [hl])
  have hsteps : 48 * s.cfg.numLeds.toNat + 2 = 2 * (24 * s.cfg.numLeds.toNat) + 1 + 1 := by omega
  have hbig : { sendFrame { s with inputs := rest, link := .prompt } with link := .ready } =
      sendFrame { s with inputs := rest } := by
    simp [sendFrame_eq, hl]
  rw [hsteps, hbig]
  exact (run_succ_of_step hstart _).trans (run_startFrame hrest hl (hrow.trans hle) rfl)

end Sys2Proof.Machine
end

section
/-! Exceptions (60_exceptions): the one reported error (R151) and the silent out-of-range address (R152). -/

namespace Sys2Proof.Machine

variable {s t : State} {i : Instr}

/-! ### `ConfigError` (R151) -/

/-- A command that turns `CFGERR` from 0 to 1 is a `NEW` of a degenerate geometry (60_exceptions R151). -/
theorem eq_new_of_exec_raises (h : exec i s = .next t) (h0 : s.cfgErr = false) (h1 : t.cfgErr = true) :
    ∃ n l xr alt, i = .new n l xr alt ∧ degenerate n l = true := by
  obtain ⟨n, l, xr, alt, hi, -, hd, -⟩ | ⟨_, _, _, _, -, -, -, rfl⟩ | ⟨-, -, _, _, _, -, rfl⟩ | ⟨-, -, _, _, -, rfl⟩ |
    ⟨-, -, rfl⟩ | ⟨-, -, -, rfl⟩ | ⟨-, -, -, rfl⟩ := exec_cases h
  · exact ⟨n, l, xr, alt, hi, hd⟩
  · simp at h1
  all_goals simp [h0] at h1

/-- Settles O19: only a rejecting `NEW` raises the bit; it stays in `EMPTY`, where every `NEW` completes. -/
theorem configErrorSetsOneBit : Obligations.ConfigErrorSetsOneBit := by
  refine ⟨fun i s t h h0 h1 => ?raisedByNew, fun n l xr alt s hp hd => ⟨?setsOneBit, ?nextNew⟩⟩
  case raisedByNew =>
    obtain ⟨n, l, xr, alt, hi, hd⟩ := eq_new_of_exec_raises h h0 h1
    exact ⟨n, l, xr, alt, hi, (degenerate_iff n l).1 hd⟩
  case setsOneBit => exact exec_new_of_degenerate hp ((degenerate_iff n l).2 hd) xr alt
  case nextNew => exact exec_new_of_empty (s := { s with cfgErr := true }) hp

/-! ### Out-of-range addressing (R152) -/

/-- The seven pixel commands are admitted in `READY` (30_encoding R73). -/
theorem admittedIn_of_isWrite_or_isRead (h : isWrite i = true ∨ isRead i = true) : admittedIn i = .ready := by
  cases i with
  | new => simp [isWrite, isRead] at h
  | _ => rfl

/-- Settles O43: a pixel command completes in `READY`; by the frames O35 and O42 an invalid address keeps the state. -/
theorem outOfRangeAddressIsSilent : Obligations.OutOfRangeAddressIsSilent := by
  intro i s hp haddr
  have hpix : isWrite i = true ∨ isRead i = true := haddr.imp And.left And.left
  obtain ⟨t, ht⟩ := exec_next_iff.2 (hp.trans (admittedIn_of_isWrite_or_isRead hpix).symm)
  have hsame : t = s := by
    obtain ⟨hw, hnone⟩ | ⟨hr, hnone⟩ := haddr
    · obtain ⟨-, hnop, -⟩ := writeCommandsChangeOnlyTheAddressedPixel i s t hw ht
      exact hnop hnone
    · obtain ⟨-, -, hnop⟩ := readCommandsDisturbNothing i s t hr ht
      exact hnop hnone
  rw [ht, hsame]

end Sys2Proof.Machine
end

section
/-! Reset (70_reset_and_hazards): the state it enters (R170) and the trace of the run it ends (R172). -/

namespace Sys2Proof.Machine

variable {s : State}

@[simp] theorem statusWord_resetBlock (s : State) : statusWord (resetBlock s) = 0b000#3 := by
  have hphase : (Phase.empty == Phase.ready) = false := rfl
  simp [statusWord, hphase]

@[simp] theorem cutTail_withInputs (s : State) (ins : List Input) : cutTail { s with inputs := ins } = cutTail s := rfl

/-- Outside a frame a reset adds nothing to the ended run (70_reset_and_hazards R172). -/
theorem cutTail_of_idle (hb : s.busy = false) : cutTail s = [] := by simp [cutTail, hb]

/-- After a cut frame nothing follows but at most one `CsExit` (93_implementation_defined I5). -/
theorem cutTail_eq_nil_or_csExit (s : State) : cutTail s = [] ∨ cutTail s = [.csExit] := by
  unfold cutTail
  split
  · exact .inr rfl
  · exact .inl rfl

/-- Settles O16: a due reset is taken whatever the rest of the state, and `resetBlock` sets every field named. -/
theorem resetEntersEmpty : Obligations.ResetEntersEmpty := fun s rest h =>
  ⟨resetBlock { s with inputs := rest }, step_of_reset h, by simp⟩

/-- Settles O17: the reset keeps the ended run as its trace and `cutTail`, which is one of the two tails inside a frame
and empty outside one. -/
theorem resetDuringFrameCutsTheTrace : Obligations.ResetDuringFrameCutsTheTrace := by
  intro s t hr h
  obtain ⟨rest, hi⟩ := List.head?_eq_some_iff.1 (resetDue_iff.1 hr)
  obtain rfl : resetBlock { s with inputs := rest } = t := by simpa [step_of_reset hi] using h
  refine ⟨fun _ => ?insideFrame, fun hb => ?outsideFrame, rfl, rfl, rfl⟩
  case insideFrame => obtain hc | hc := cutTail_eq_nil_or_csExit s <;> simp [hc]
  case outsideFrame => simp [cutTail_of_idle hb]

end Sys2Proof.Machine
end

section
/-! What a step that takes no reset does: it executes the command it accepts, makes one encoder step, or takes an input that
leaves everything but the port, the link and the inputs (10_state R39, 45_bitstream R141, log 11). -/

namespace Sys2Proof.Machine

variable {s t : State} {i : Instr} {w : CmdWord}

/-- A step that takes a reset enters the reset block. -/
theorem eq_resetBlock_of_takesReset (hr : takesReset s = true) (h : step s = .next t) :
    ∃ rest, t = resetBlock { s with inputs := rest } := by
  obtain ⟨rest, hi⟩ := List.head?_eq_some_iff.1 (resetDue_iff.1 hr)
  exact ⟨rest, by simpa [step_of_reset hi] using h.symm⟩

/-- With no reset due and no frame in progress, the step accepts a word that waits on the port. -/
theorem acceptedInstr_of_port (hr : s.inputs.head? ≠ some .reset) (hb : s.busy = false) (hc : s.cmd = some w)
    (hd : decode w = .ok i) : acceptedInstr s = some i := by
  simp [acceptedInstr, acceptedWord, resetDue, hr, hb, hc, hd]

/-- With an empty port and no frame in progress, the step accepts a word that the host presents. -/
theorem acceptedInstr_of_presented {rest : List Input} (hb : s.busy = false) (hc : s.cmd = none)
    (hi : s.inputs = .command w :: rest) (hd : decode w = .ok i) : acceptedInstr s = some i := by
  simp [acceptedInstr, acceptedWord, resetDue, hb, hc, hi, presentedWord, hd]

/-- What a step that takes no reset can do when it answers a next state. -/
inductive StepAction (s t : State) : Prop where
  /-- The accepted command is executed, its word taken off the port or the inputs. -/
  | exec (i : Instr) (cmd : Option CmdWord) (inputs : List Input) (hb : s.busy = false) (ha : acceptedInstr s = some i)
      (he : exec i { s with cmd := cmd, inputs := inputs } = .next t)
  /-- The encoder makes a step. -/
  | encoder (hb : s.busy = true) (hl : s.link ≠ .waiting) (ht : t = encoderStep s)
  /-- An input is taken that is no command, or a command that waits; or nothing happens. -/
  | input (cmd : Option CmdWord) (link : Link) (inputs : List Input)
      (ht : t = { s with cmd := cmd, link := link, inputs := inputs })

/-- Every step but a reset executes the accepted command, makes an encoder step, or only takes an input. -/
theorem step_action (h : step s = .next t) (hr : takesReset s = false) : StepAction s t := by
  cases step_effect h with
  | reset _ hi _ => simp [resetDue, hi] at hr
  | port hr hb w hc i hd he => exact .exec i none s.inputs hb (acceptedInstr_of_port hr hb hc hd) he
  | command hb hc w rest hi i hd he => exact .exec i s.cmd rest hb (acceptedInstr_of_presented hb hc hi hd) he
  | setup _ _ _ rest _ ht => exact .input s.cmd _ rest ht
  | idle _ _ he => exact .input s.cmd t.link t.inputs he.eq_withInputsLink
  | encoder hb hl _ ht => exact .encoder hb hl ht
  | hold _ _ _ w rest _ ht => exact .input (some w) s.link rest ht
  | frame _ _ he => exact .input s.cmd t.link t.inputs he.eq_withInputsLink

end Sys2Proof.Machine
end

section
/-! The machine invariant (`State.Inv`): it holds at reset, and every command, every encoder step, every input and every reset
keeps it. Inside a frame the trace is whole frames and the sent part of the current one, which the encoder extends by the next
byte and closes when it is complete (45_bitstream R138). -/

namespace Sys2Proof.Machine

variable {s t : State} {i : Instr} {len : Nat}

/-! ### Traces of whole frames (45_bitstream R138) -/

/-- A trace goes on after whole frames as from the start. -/
theorem wholeFrames_append {o : Option Nat} {es : List Event} (h : wholeFrames len o es = true) (es' : List Event) :
    wholeFrames len o (es ++ es') = wholeFrames len none es' := by
  fun_induction wholeFrames len o es <;> simp_all [wholeFrames]

/-- A frame's symbols and its `CsExit` close a pair that `k` bytes have been sent in. -/
theorem wholeFrames_symbols {bs : List Byte} (hbs : ∀ b ∈ bs, b = 0x7E#8 ∨ b = 0x70#8) {k : Nat}
    (hk : k + bs.length = len) : wholeFrames len (some k) (bs.map .byte ++ [.csExit]) = true := by
  induction bs generalizing k with
  | nil => simpa [wholeFrames] using hk
  | cons b bs ih =>
    have hb : b = sym true ∨ b = sym false := hbs b (by simp)
    have htail := ih (fun c hc => hbs c (by simp [hc])) (k := k + 1) (by rw [← hk, List.length_cons]; omega)
    simpa [wholeFrames, htail] using hb

/-- Whole frames and one more whole frame are whole frames. -/
theorem wholeFrames_append_frame {es : List Event} (s : State)
    (h : wholeFrames (24 * s.cfg.numLeds.toNat) none es = true) :
    wholeFrames (24 * s.cfg.numLeds.toNat) none (es ++ .csEnter :: s.frame.map .byte ++ [.csExit]) = true := by
  rw [List.append_assoc, wholeFrames_append h]
  have hlen : s.frame.length = 24 * s.cfg.numLeds.toNat := length_frameBytes
  exact wholeFrames_symbols (bs := s.frame) (fun _ => eq_or_of_mem_frameBytes) ((Nat.zero_add _).trans hlen)

/-- Outside a frame the trace is well formed exactly where it is whole frames. -/
theorem traceWf_iff_of_idle (hb : s.busy = false) :
    s.traceWf ↔ wholeFrames (24 * s.cfg.numLeds.toNat) none s.trace = true := by
  simp [State.traceWf, hb]

/-- Inside a frame the trace is whole frames, `CsEnter` and the part of the frame that is sent. -/
theorem traceWf_iff_of_busy (hb : s.busy = true) : s.traceWf ↔
    ∃ whole, wholeFrames (24 * s.cfg.numLeds.toNat) none whole = true ∧
      s.trace = whole ++ .csEnter :: (s.frame.take s.sentBytes).map .byte := by
  simp [State.traceWf, hb]

/-! ### The steps inside a frame -/

/-- The invariant does not speak of the port, the link, the inputs, the ended runs and the drawn values. -/
theorem State.Inv.withSurroundings (h : s.Inv) (cmd : Option CmdWord) (link : Link) (inputs : List Input)
    (pastRuns : List (List Event)) (draws : Nat) :
    State.Inv { s with cmd := cmd, link := link, inputs := inputs, pastRuns := pastRuns, draws := draws } :=
  ⟨h.memWf, h.memBound, h.geometry, h.emptyPhase, h.cfgErr, h.rdLow, h.rn, h.roms, h.idle, h.cursor, h.trace⟩

/-- A frame is in progress only in `READY` (10_state R20). -/
theorem State.Inv.ready_of_busy (h : s.Inv) (hb : s.busy = true) : s.phase = .ready := by
  cases hp : s.phase with
  | ready => rfl
  | empty =>
    obtain ⟨-, -, -, hidle, -⟩ := h.emptyPhase hp
    simp [hb] at hidle

/-- Outside a frame the block has sent whole frames. -/
theorem State.Inv.wholeFrames_of_idle (h : s.Inv) (hb : s.busy = false) :
    wholeFrames (24 * s.cfg.numLeds.toNat) none s.trace = true := (traceWf_iff_of_idle hb).1 h.trace

/-- The end of a frame whose bytes are all sent keeps the invariant (45_bitstream R146). -/
theorem inv_closeFrame (h : s.Inv) (hb : s.busy = true) (hf : s.frameSent = true) : (closeFrame s).Inv := by
  obtain ⟨whole, hwhole, htrace⟩ := (traceWf_iff_of_busy hb).1 h.trace
  have hp := h.ready_of_busy hb
  have hall : s.frame.take s.sentBytes = s.frame := by
    rw [sentBytes_of_frameSent hf, State.frame, List.take_of_length_le (length_frameBytes).le]
  exact {
    memWf := h.memWf, memBound := h.memBound, geometry := h.geometry, cfgErr := h.cfgErr, rdLow := h.rdLow, rn := h.rn
    roms := h.roms
    emptyPhase := fun he => by simp [hp] at he
    idle := fun _ => rfl
    cursor := nofun
    trace := (traceWf_iff_of_idle rfl).2 <| by
      rw [closeFrame_trace, htrace, hall]
      exact wholeFrames_append_frame s hwhole }

/-- Sending the next byte keeps the invariant (45_bitstream R144, R145). -/
theorem inv_advance_bitStep (h : s.Inv) (hb : s.busy = true) (hf : s.frameSent = false) : (advance (bitStep s)).Inv := by
  obtain ⟨whole, hwhole, htrace⟩ := (traceWf_iff_of_busy hb).1 h.trace
  have hp := h.ready_of_busy hb
  have hc := h.cursor hb hf
  obtain ⟨hplace, hcursor⟩ := advance_bitStep_place hf hc
  have hb' : (advance (bitStep s)).busy = true := by simpa using hb
  have hframe : (advance (bitStep s)).frame = s.frame := by simp [State.frame]
  exact {
    memWf := by simpa using h.memWf
    memBound := by simpa using h.memBound
    geometry := by simpa using h.geometry
    emptyPhase := by simp [hp]
    cfgErr := by simpa using h.cfgErr
    rdLow := by simpa using h.rdLow
    rn := by simpa using h.rn
    roms := by simpa [State.romsPinned] using h.roms
    idle := by simp [hb]
    cursor := fun _ => hcursor
    trace := (traceWf_iff_of_busy hb').2 ⟨whole, by simpa using hwhole, by
      rw [hplace, hframe, List.take_add_one, getElem?_frame_sentBytes hf hc]
      simp [htrace]⟩ }

/-- An encoder step keeps the invariant. -/
theorem inv_encoderStep (h : s.Inv) (hb : s.busy = true) : (encoderStep s).Inv := by
  obtain ⟨hf, he⟩ | ⟨hf, he⟩ := encoderStep_cases s
  · exact he ▸ inv_closeFrame h hb hf
  · exact he ▸ inv_advance_bitStep h hb hf

/-! ### The commands -/

/-- A rejected `NEW` leaves the block in `EMPTY` (40_construct R81). -/
theorem inv_raiseConfigError (h : s.Inv) (hp : s.phase = .empty) : (raiseConfigError s).Inv :=
  ⟨h.memWf, h.memBound, h.geometry, h.emptyPhase, fun _ => hp, h.rdLow, h.rn, h.roms, h.idle, h.cursor, h.trace⟩

/-- A construction of a geometry that is not degenerate enters `READY` with black pixels (40_construct R80). -/
theorem inv_construct (h : s.Inv) (hp : s.phase = .empty) {g : Geometry} (hg : g.legal) : (construct g s).Inv := by
  obtain ⟨-, hrd, hrn, hb, htrace⟩ := h.emptyPhase hp
  exact {
    memWf := memory_wf_memClear
    memBound := nofun
    geometry := fun _ => hg
    emptyPhase := nofun
    cfgErr := nofun
    rdLow := h.rdLow
    rn := by simp [hrn]
    roms := h.roms
    idle := h.idle
    cursor := by simp [hb]
    trace := (traceWf_iff_of_idle (s := construct g s) hb).2 (by simp [htrace, wholeFrames]) }

/-- Storing a pixel outside a frame keeps the invariant: the index is checked (43_pixel_write R113). -/
theorem inv_storeColour (h : s.Inv) (hp : s.phase = .ready) (hb : s.busy = false) (x y : Index) (c : Rgb) :
    (storeColour x y c s).Inv := by
  cases haddr : pixAddr s.cfg x y with
  | none => rwa [storeColour_of_invalid haddr]
  | some k =>
    rw [storeColour_of_valid haddr]
    exact {
      memWf := memory_wf_memWrite h.memWf k _
      memBound := fun e he => by
        obtain hmem | rfl := mem_memWrite he
        · exact h.memBound e hmem
        · exact lt_of_pixAddr haddr
      geometry := h.geometry
      emptyPhase := by simp [hp]
      cfgErr := h.cfgErr, rdLow := h.rdLow, rn := h.rn, roms := h.roms, idle := h.idle
      cursor := by simp [hb]
      trace := (traceWf_iff_of_idle (by exact hb)).2 (h.wholeFrames_of_idle hb) }

/-- `Expand8` leaves the low three bits 0 (42_pwm_lut R105). -/
theorem expand8_low (v : Level) : (expand8 v).extractLsb' 0 3 = 0#3 := BitVec.extractLsb'_append_eq_right

/-- Loading a pixel keeps the invariant: it is delivered expanded (44_pixel_read R125). -/
theorem inv_loadColour (h : s.Inv) (hp : s.phase = .ready) (x y : Index) : (loadColour x y s).Inv := by
  cases haddr : pixAddr s.cfg x y with
  | none => rwa [loadColour_of_invalid haddr]
  | some k =>
    rw [loadColour_of_valid haddr]
    exact {
      memWf := h.memWf, memBound := h.memBound, geometry := h.geometry
      emptyPhase := by simp [hp]
      cfgErr := h.cfgErr
      rdLow := fun _ => ⟨expand8_low _, expand8_low _, expand8_low _⟩
      rn := h.rn, roms := h.roms, idle := h.idle, cursor := h.cursor, trace := h.trace }

/-- `GETN` keeps the invariant (40_construct R84). -/
theorem inv_loadCount (h : s.Inv) (hp : s.phase = .ready) : (loadCount s).Inv :=
  ⟨h.memWf, h.memBound, h.geometry, by simp [hp], h.cfgErr, h.rdLow, fun _ => rfl, h.roms, h.idle, h.cursor, h.trace⟩

/-- The big step adds one whole frame (45_bitstream R131). -/
theorem inv_sendFrame (h : s.Inv) (hp : s.phase = .ready) (hb : s.busy = false) : (sendFrame s).Inv := by
  have htrace : (sendFrame s).traceWf := by
    rw [traceWf_iff_of_idle (sendFrame_busy s), sendFrame_trace]
    exact wholeFrames_append_frame s (h.wholeFrames_of_idle hb)
  rw [sendFrame_eq] at htrace ⊢
  exact {
    memWf := h.memWf, memBound := h.memBound, geometry := h.geometry, cfgErr := h.cfgErr, rdLow := h.rdLow, rn := h.rn
    roms := h.roms
    emptyPhase := by simp [hp]
    idle := fun _ => rfl
    cursor := nofun
    trace := htrace }

/-- The start of a frame has sent none of its bytes, and points at pixel 0 (45_bitstream R142). -/
theorem inv_startFrame (h : s.Inv) (hp : s.phase = .ready) (hb : s.busy = false) : (startFrame s).Inv where
  memWf := h.memWf
  memBound := h.memBound
  geometry := h.geometry
  emptyPhase := by simp [hp]
  cfgErr := h.cfgErr
  rdLow := h.rdLow
  rn := h.rn
  roms := h.roms
  idle := fun _ => rfl
  cursor := fun _ _ => by
    obtain ⟨hrow, hle⟩ := h.geometry hp
    exact cursorWf_of_load .green (hrow.trans hle)
  trace := (traceWf_iff_of_busy rfl).2 ⟨s.trace, h.wholeFrames_of_idle hb, rfl⟩

/-- A command that completes outside a frame keeps the invariant. -/
theorem inv_exec (h : s.Inv) (hb : s.busy = false) (he : exec i s = .next t) : t.Inv := by
  obtain ⟨n, l, xr, alt, -, hp, -, rfl⟩ | ⟨n, l, xr, alt, -, hp, hd, rfl⟩ | ⟨-, hp, x, y, c, -, rfl⟩ |
    ⟨-, hp, x, y, -, rfl⟩ | ⟨-, hp, rfl⟩ | ⟨-, hp, -, rfl⟩ | ⟨-, hp, -, rfl⟩ := exec_cases he
  · exact inv_raiseConfigError h hp
  · exact inv_construct h hp ((degenerate_eq_false_iff n l).1 hd)
  · exact inv_storeColour h hp hb x y c
  · exact inv_loadColour h hp x y
  · exact inv_loadCount h hp
  · exact inv_sendFrame h hp hb
  · exact inv_startFrame h hp hb

/-! ### Reset (10_state R36) -/

/-- An empty block meets the invariant where its ROMs are pinned: everything else is at its reset value. -/
theorem inv_resetBlock (hroms : s.romsPinned) : (resetBlock s).Inv where
  memWf := memory_wf_memClear
  memBound := nofun
  geometry := nofun
  emptyPhase := fun _ => by simp
  cfgErr := nofun
  rdLow := nofun
  rn := nofun
  roms := hroms
  idle := fun _ => rfl
  cursor := nofun
  trace := (traceWf_iff_of_idle rfl).2 rfl

/-- The ROMs hold the pinned points from reset on (42_pwm_lut R101, R102). -/
theorem romsPinned_reset : State.reset.romsPinned := by
  simp [State.romsPinned, State.reset, pwm5Rom, pwm4Rom, pwm5Entry, pwm4Entry]

/-! ### The obligations -/

/-- Settles O15: with its ROMs pinned, the state after reset is a reset block, but for the observer's record. -/
theorem invariantHoldsAtReset : Obligations.InvariantHoldsAtReset :=
  (inv_resetBlock romsPinned_reset).withSurroundings none .prompt [] [] 0

/-- Settles O54: a reset enters a state that meets the invariant anyway; else the step is a command outside a frame, an
encoder step inside one, or an input, which touches nothing that the invariant speaks of. -/
theorem everyStepKeepsTheInvariant : Obligations.EveryStepKeepsTheInvariant := by
  intro s t hInv h
  cases hr : takesReset s with
  | true =>
    obtain ⟨rest, rfl⟩ := eq_resetBlock_of_takesReset hr h
    exact inv_resetBlock hInv.roms
  | false =>
    cases step_action h hr with
    | exec i cmd inputs hb _ he => exact inv_exec (hInv.withSurroundings cmd s.link inputs s.pastRuns s.draws) hb he
    | encoder hb _ ht => exact ht ▸ inv_encoderStep hInv hb
    | input cmd link inputs ht => exact ht ▸ hInv.withSurroundings cmd link inputs s.pastRuns s.draws

end Sys2Proof.Machine
end

section
/-! The word and its forms: decoding inverts encoding (30_encoding R64 to R66, R70), and the nine bytes of a word stand for it
(R63, R69). -/

namespace Sys2Proof

variable {i : Instr} {bs : List Byte}

/-- The flags of `NEW` fill the two low bits of `AUX` only (30_encoding R70). -/
theorem newFlags_and (xr alt : Bool) : newFlags xr alt &&& 3#8 = newFlags xr alt := by
  revert xr alt
  decide

/-- An encoded command has zeros in the fields it does not use (30_encoding R67). -/
theorem encode_and_usedBits (i : Instr) : encode i &&& usedBits i = encode i := by
  rw [eq_comm]
  cases i with
  | new n l xr alt => simp [encode, packWord_eq_and_iff, newFlags_and]
  | _ => simp [encode, packWord_eq_and_iff]

/-- Nine bytes side by side are the word they were taken from (30_encoding R63). -/
theorem wordOfBytes_bytesOfWord (w : CmdWord) : wordOfBytes (bytesOfWord w) = some w := by
  simp +decide only [wordOfBytes, bytesOfWord, Option.some.injEq, BitVec.extractLsb'_append_extractLsb'_eq_extractLsb']
  exact BitVec.extractLsb'_eq_self

/-- Any other number of bytes is no word (30_encoding R69). -/
theorem wordOfBytes_of_length_ne (h : bs.length ≠ 9) : wordOfBytes bs = none := by
  unfold wordOfBytes
  split
  · simp at h
  · rfl

/-- Settles O1: an encoded command is its own encoding on the bits it uses, so by `decode_eq_ok_iff` it decodes to itself. -/
theorem decodeOfEncodeIsTheCommand : Obligations.DecodeOfEncodeIsTheCommand :=
  fun i => decode_eq_ok_iff.2 (encode_and_usedBits i).symm

/-- Settles O5, by the two cases of `wordOfBytes`. -/
theorem nineBytesOpcodeFirstAreTheWord : Obligations.NineBytesOpcodeFirstAreTheWord :=
  ⟨fun w => by rw [decodeBytes, wordOfBytes_bytesOfWord], fun bs h => by rw [decodeBytes, wordOfBytes_of_length_ne h]⟩

/-- Settles O6: the decoder evaluates on the eleven words. -/
theorem wordsOfTheSpecDecode : Obligations.WordsOfTheSpecDecode := by
  unfold Obligations.WordsOfTheSpecDecode
  decide

end Sys2Proof
end

section
/-! The assembler (30_encoding R70, R71): a line assembles exactly where it is well formed, and its numbers are then the fields
of the word. -/

namespace Sys2Proof.Machine

variable {n : Nat} {ns : List Nat} {f : AsmField} {fs : List AsmField} {name : AsmName} {l l' : AsmLine} {i : Instr}

/-! ### Lines that fit a form -/

@[simp] theorem fits_word : AsmField.fits .word n = true ↔ n < 65536 := decide_eq_true_iff
@[simp] theorem fits_byte : AsmField.fits .byte n = true ↔ n < 256 := decide_eq_true_iff
@[simp] theorem fits_flag : AsmField.fits .flag n = true ↔ n < 2 := decide_eq_true_iff

/-- Only the empty operand list fits the empty form. -/
@[simp] theorem fieldsFit_nil : fieldsFit [] ns = true ↔ ns = [] := by
  cases ns <;> simp [fieldsFit]

@[simp] theorem fieldsFit_cons_nil : fieldsFit (f :: fs) [] = false := rfl
@[simp] theorem fieldsFit_cons_cons : fieldsFit (f :: fs) (n :: ns) = (f.fits n && fieldsFit fs ns) := rfl

/-- An operand list fits a form operand by operand. -/
theorem fieldsFit_cons :
    fieldsFit (f :: fs) ns = true ↔ ∃ m ms, ns = m :: ms ∧ f.fits m = true ∧ fieldsFit fs ms = true := by
  cases ns <;> simp

/-- A line fits one of its name's forms. -/
theorem wf_iff : l.wf = true ↔ ∃ fs ∈ l.name.forms, fieldsFit fs l.operands = true := by
  simp [AsmLine.wf]

/-- A list that fits a form is as long as it. -/
theorem length_eq_of_fieldsFit (h : fieldsFit fs ns = true) : ns.length = fs.length := by
  induction fs generalizing ns with
  | nil => simp [fieldsFit_nil.1 h]
  | cons f fs ih =>
    obtain ⟨m, ms, rfl, -, hms⟩ := fieldsFit_cons.1 h
    rw [List.length_cons, List.length_cons, ih hms]

/-- Every operand list that fits a form of its name has an expansion (30_encoding R70, R71). -/
theorem exists_expandLine_of_wf (h : l.wf = true) : ∃ i, expandLine l.name l.operands = some i := by
  obtain ⟨name, ns⟩ := l
  cases name with
  | _ =>
    simp [wf_iff, AsmName.forms, fieldsFit_cons] at h
    grind [expandLine]

/-- A line assembles exactly where it is well formed (30_encoding R70). -/
theorem exists_assemble_iff : (∃ i, assemble l = some i) ↔ l.wf = true := by
  simp only [assemble_eq_some, exists_and_left]
  exact ⟨And.left, fun h => ⟨h, exists_expandLine_of_wf h⟩⟩

theorem assemble_isSome_iff : (assemble l).isSome = true ↔ l.wf = true :=
  Option.isSome_iff_exists.trans exists_assemble_iff

/-- Two lines that are well formed alike and expand alike assemble alike. -/
theorem assemble_congr (hwf : l.wf = true ↔ l'.wf = true)
    (he : expandLine l.name l.operands = expandLine l'.name l'.operands) : assemble l = assemble l' := by
  simp only [assemble, hwf, he]

/-! ### Fields -/

/-- A number that fits a 16-bit field is not truncated (93 I11). -/
@[simp] theorem asmWord_toNat (h : n < 65536) : (asmWord n).toNat = n := Nat.mod_eq_of_lt h

/-- A number that fits an 8-bit field is not truncated (93 I11). -/
@[simp] theorem asmByte_toNat (h : n < 256) : (asmByte n).toNat = n := Nat.mod_eq_of_lt h

/-- Settles O7: a line that assembles fits a form of its name, so each of its fields holds the number written; a
pseudo-instruction is well formed where its expansion is, and expands alike. -/
theorem assemblerNeverTruncates : Obligations.AssemblerNeverTruncates := by
  refine ⟨fun _ => exists_assemble_iff, ?new, ?setxy, ?set, ?setsxy, ?setdxy, ?setd, ?getxy, ?get, ?getn, ?showFrame,
    fun n => assemble_congr ?newSquare rfl, fun n l => assemble_congr ?newPlain rfl, fun n l xr => assemble_congr ?newReversed rfl, rfl,
    fun x y r g b => assemble_congr ?write rfl, fun x y r g b br => assemble_congr ?writeDimmed rfl, fun x y => assemble_congr ?read rfl,
    fun n xr alt s hp => ?zeroRow⟩
  case new =>
    intro n l xr alt i h
    simp [assemble_eq_some, wf_iff, AsmName.forms, expandLine] at h
    obtain ⟨⟨hn, hl, hxr, halt⟩, rfl⟩ := h
    simp [encode, opcode, hn, hl, newFlags_asmFlag (Nat.lt_succ_of_le hxr) (Nat.lt_succ_of_le halt)]
  case getn | showFrame =>
    intro i h
    obtain rfl := Option.some.inj h
    rfl
  case newSquare | newPlain | newReversed | write | writeDimmed | read => simp [wf_iff, AsmName.forms]
  case zeroRow => exact exec_new_of_degenerate hp ((degenerate_iff n 0#16).2 (.inr (.inl rfl))) xr alt
  case setxy | set | setsxy | setdxy | setd | getxy | get =>
    intros
    rename_i h
    simp [assemble_eq_some, wf_iff, AsmName.forms, expandLine] at h
    obtain ⟨hfit, rfl⟩ := h
    simp [encode, opcode, hfit]

/-- Settles O8: a line assembles where it is well formed, which for a full operand list is that each number fits its field;
a well-formed line has as many operands as a form of its name. -/
theorem assemblerAcceptsExactlyWhatFits : Obligations.AssemblerAcceptsExactlyWhatFits := by
  unfold Obligations.AssemblerAcceptsExactlyWhatFits
  simp only [assemble_isSome_iff]
  refine ⟨?_, ?_, ?_, ?scaledOrDimmed, ?_, ?_, ?_, ?_, ?_, ?arity⟩
  case scaledOrDimmed => rintro name x y r g b v (rfl | rfl) <;> simp [wf_iff, AsmName.forms]
  case arity =>
    intro p hp ns h
    obtain ⟨fs, (hfs : fs ∈ p.1.forms), hfit⟩ := wf_iff.1 h
    rw [length_eq_of_fieldsFit hfit]
    clear h hfit
    revert fs p
    decide
  all_goals simp [wf_iff, AsmName.forms]

end Sys2Proof.Machine
end

section
/-! What a step changes (10_state R25 to R27, R34, 00_scope R7): each part of the state only by the commands that are said to
change it, by the encoder, or by reset. -/

namespace Sys2Proof.Machine

variable {s t : State} {i : Instr} {k : Nat}

/-! ### The frame of an encoder step -/

/-- An encoder step changes `BUSY`, the cursor, the trace, the link and the draw counter only (45_bitstream R144 to R146). -/
theorem encoderStep_eq (s : State) : encoderStep s = { s with
    busy := (encoderStep s).busy, cursor := (encoderStep s).cursor, frameSent := (encoderStep s).frameSent,
    link := (encoderStep s).link, trace := (encoderStep s).trace, draws := (encoderStep s).draws } := by
  obtain ⟨-, h⟩ | ⟨-, h⟩ := encoderStep_cases s
  · rw [h]; rfl
  · rw [h, advance_eq]; rfl

@[simp] theorem encoderStep_pix (s : State) : (encoderStep s).pix = s.pix := by rw [encoderStep_eq]
@[simp] theorem encoderStep_rd (s : State) : (encoderStep s).rd = s.rd := by rw [encoderStep_eq]
@[simp] theorem encoderStep_rdWritten (s : State) : (encoderStep s).rdWritten = s.rdWritten := by rw [encoderStep_eq]
@[simp] theorem encoderStep_rn (s : State) : (encoderStep s).rn = s.rn := by rw [encoderStep_eq]
@[simp] theorem encoderStep_rnWritten (s : State) : (encoderStep s).rnWritten = s.rnWritten := by rw [encoderStep_eq]
@[simp] theorem encoderStep_cfgErr (s : State) : (encoderStep s).cfgErr = s.cfgErr := by rw [encoderStep_eq]
@[simp] theorem encoderStep_cmd (s : State) : (encoderStep s).cmd = s.cmd := by rw [encoderStep_eq]
@[simp] theorem encoderStep_inputs (s : State) : (encoderStep s).inputs = s.inputs := by rw [encoderStep_eq]
@[simp] theorem encoderStep_pastRuns (s : State) : (encoderStep s).pastRuns = s.pastRuns := by rw [encoderStep_eq]

/-- An encoder step that ends the frame finds every bit sent, and emits `CsExit` (45_bitstream R146). -/
theorem encoderStep_ends (hb : s.busy = true) (h : (encoderStep s).busy = false) :
    s.frameSent = true ∧ (encoderStep s).trace = s.trace ++ [.csExit] := by
  obtain ⟨hf, he⟩ | ⟨-, he⟩ := encoderStep_cases s
  · exact ⟨hf, by rw [he, closeFrame_trace]⟩
  · simp [he, hb] at h

/-! ### What each command changes -/

/-- A command that changes a pixel is a write to it or `NEW` (20_memory R47, R54). -/
theorem exec_changes_pixel (h : exec i s = .next t) (hk : memRead t.pix k ≠ memRead s.pix k) :
    writeTarget s.cfg i = some k ∨ admittedIn i = .empty := by
  obtain ⟨_, _, _, _, rfl, -⟩ | ⟨_, _, _, _, rfl, -⟩ | ⟨-, -, x, y, c, haddr, rfl⟩ | ⟨-, -, _, _, -, rfl⟩ | ⟨-, -, rfl⟩ |
    ⟨-, -, -, rfl⟩ | ⟨-, -, -, rfl⟩ := exec_cases h
  · exact .inr rfl
  · exact .inr rfl
  · rw [haddr]
    cases hx : pixAddr s.cfg x y with
    | none => simp [storeColour_of_invalid hx] at hk
    | some j =>
      have hkj : k = j := by
        by_contra hne
        exact hk (memRead_storeColour_of_ne hx hne c)
      exact .inl (congrArg some hkj.symm)
  all_goals simp at hk

/-- A command that changes `RD` is a read at a valid address, and delivers the expanded pixel (10_state R25). -/
theorem exec_changes_rd (h : exec i s = .next t) (hrd : (t.rd, t.rdWritten) ≠ (s.rd, s.rdWritten)) :
    ∃ k, readTarget s.cfg i = some k ∧ t.rdWritten = true ∧ t.rd = expandPixel (memRead s.pix k) := by
  obtain ⟨_, _, _, _, -, -, -, rfl⟩ | ⟨_, _, _, _, -, -, -, rfl⟩ | ⟨-, -, _, _, _, -, rfl⟩ | ⟨-, -, x, y, haddr, rfl⟩ |
    ⟨-, -, rfl⟩ | ⟨-, -, -, rfl⟩ | ⟨-, -, -, rfl⟩ := exec_cases h
  pick_goal 4
  · rw [haddr]
    cases hx : pixAddr s.cfg x y with
    | none => simp [loadColour_of_invalid hx] at hrd
    | some j => exact ⟨j, rfl, by simp [loadColour_of_valid hx]⟩
  all_goals simp at hrd

/-- A command that changes `RN` is `GETN`, and delivers `numLeds` (10_state R26). -/
theorem exec_changes_rn (h : exec i s = .next t) (hrn : (t.rn, t.rnWritten) ≠ (s.rn, s.rnWritten)) :
    i = .getn ∧ t.rnWritten = true ∧ t.rn = s.cfg.numLeds := by
  obtain ⟨_, _, _, _, -, -, -, rfl⟩ | ⟨_, _, _, _, -, -, -, rfl⟩ | ⟨-, -, _, _, _, -, rfl⟩ | ⟨-, -, _, _, -, rfl⟩ |
    ⟨rfl, -, rfl⟩ | ⟨-, -, -, rfl⟩ | ⟨-, -, -, rfl⟩ := exec_cases h
  pick_goal 5
  · exact ⟨rfl, rfl, rfl⟩
  all_goals simp at hrn

/-- A command that changes the phase is a `NEW` that constructs (10_state R27). -/
theorem exec_changes_phase (h : exec i s = .next t) (hp : t.phase ≠ s.phase) :
    ∃ n l xr alt, i = .new n l xr alt ∧ t.phase = .ready := by
  obtain ⟨_, _, _, _, -, -, -, rfl⟩ | ⟨n, l, xr, alt, hi, -, -, rfl⟩ | ⟨-, -, _, _, _, -, rfl⟩ | ⟨-, -, _, _, -, rfl⟩ |
    ⟨-, -, rfl⟩ | ⟨-, -, -, rfl⟩ | ⟨-, -, -, rfl⟩ := exec_cases h
  pick_goal 2
  · exact ⟨n, l, xr, alt, hi, rfl⟩
  all_goals simp at hp

/-- A command that changes `CFGERR` is `NEW` (10_state R27). -/
theorem exec_changes_cfgErr (h : exec i s = .next t) (hc : t.cfgErr ≠ s.cfgErr) : ∃ n l xr alt, i = .new n l xr alt := by
  obtain ⟨n, l, xr, alt, hi, -⟩ | ⟨n, l, xr, alt, hi, -⟩ | ⟨-, -, _, _, _, -, rfl⟩ | ⟨-, -, _, _, -, rfl⟩ | ⟨-, -, rfl⟩ |
    ⟨-, -, -, rfl⟩ | ⟨-, -, -, rfl⟩ := exec_cases h
  · exact ⟨n, l, xr, alt, hi⟩
  · exact ⟨n, l, xr, alt, hi⟩
  all_goals simp at hc

/-- A command that raises `BUSY` is `SHOW` (10_state R27). -/
theorem exec_raises_busy (h : exec i s = .next t) (hb : s.busy = false) (hb' : t.busy = true) : i = .showFrame := by
  obtain ⟨_, _, _, _, -, -, -, rfl⟩ | ⟨_, _, _, _, -, -, -, rfl⟩ | ⟨-, -, _, _, _, -, rfl⟩ | ⟨-, -, _, _, -, rfl⟩ |
    ⟨-, -, rfl⟩ | ⟨hi, -⟩ | ⟨hi, -⟩ := exec_cases h
  pick_goal 6
  · exact hi
  pick_goal 6
  · exact hi
  all_goals simp [hb] at hb'

/-- A command adds to the trace, and only `SHOW` adds anything; it leaves the ended runs (00_scope R7). -/
theorem exec_appends_trace (h : exec i s = .next t) :
    t.pastRuns = s.pastRuns ∧ ∃ es, t.trace = s.trace ++ es ∧ (es ≠ [] → i = .showFrame) := by
  obtain ⟨_, _, _, _, -, -, -, rfl⟩ | ⟨_, _, _, _, -, -, -, rfl⟩ | ⟨-, -, _, _, _, -, rfl⟩ | ⟨-, -, _, _, -, rfl⟩ |
    ⟨-, -, rfl⟩ | ⟨hi, -, -, rfl⟩ | ⟨hi, -, -, rfl⟩ := exec_cases h
  pick_goal 6
  · exact ⟨sendFrame_pastRuns s, _, by rw [sendFrame_trace, List.append_assoc], fun _ => hi⟩
  pick_goal 6
  · exact ⟨rfl, _, rfl, fun _ => hi⟩
  all_goals exact ⟨by simp, [], by simp, nofun⟩

/-! ### The obligations -/

/-- Settles O57: of the steps that take no reset, only a command changes a pixel. -/
theorem pixelsChangeOnlyByWriteCommands : Obligations.PixelsChangeOnlyByWriteCommands := by
  intro s t k h hk
  rw [or_iff_not_imp_left, Bool.not_eq_true]
  intro hr
  cases step_action h hr with
  | exec i cmd inputs _ ha he => exact ⟨i, ha, exec_changes_pixel (s := { s with cmd := cmd, inputs := inputs }) he hk⟩
  | encoder _ _ ht => simp [ht] at hk
  | input _ _ _ ht => simp [ht] at hk

/-- Settles O58: of the steps that take no reset, only a command changes a result. -/
theorem resultsChangeOnlyByTheirCommands : Obligations.ResultsChangeOnlyByTheirCommands := by
  intro s t h hr
  cases step_action h hr with
  | exec i cmd inputs _ ha he =>
    refine ⟨fun hrd => ?_, fun hrn => ?_⟩
    · obtain ⟨k, hk, hval⟩ := exec_changes_rd (s := { s with cmd := cmd, inputs := inputs }) he hrd
      exact ⟨i, k, ha, hk, hval⟩
    · obtain ⟨rfl, hval⟩ := exec_changes_rn (s := { s with cmd := cmd, inputs := inputs }) he hrn
      exact ⟨ha, hval⟩
  | encoder _ _ ht => simp [ht]
  | input _ _ _ ht => simp [ht]

/-- Settles O59: `READY` and `CFGERR` change with a command only, `BUSY` rises with a command and falls with the encoder. -/
theorem statusChangesOnlyAsTheTableSays : Obligations.StatusChangesOnlyAsTheTableSays := by
  intro s t h hr
  cases step_action h hr with
  | exec i cmd inputs hb ha he =>
    refine ⟨fun hp => ?_, fun hc => ?_, fun _ hb' => ?_, fun hb' => by simp [hb] at hb'⟩
    · obtain ⟨n, l, xr, alt, rfl, hp'⟩ := exec_changes_phase (s := { s with cmd := cmd, inputs := inputs }) he hp
      exact ⟨n, l, xr, alt, ha, hp'⟩
    · obtain ⟨n, l, xr, alt, rfl⟩ := exec_changes_cfgErr (s := { s with cmd := cmd, inputs := inputs }) he hc
      exact ⟨n, l, xr, alt, ha⟩
    · exact exec_raises_busy (s := { s with cmd := cmd, inputs := inputs }) he hb hb' ▸ ha
  | encoder hb hl ht =>
    subst ht
    refine ⟨by simp, by simp, by simp [hb], fun _ hb' => ?_⟩
    obtain ⟨hf, htrace⟩ := encoderStep_ends hb hb'
    exact ⟨hf, hl, htrace⟩
  | input _ _ _ ht => simp +contextual [ht]

/-- Settles O60: a command and the encoder append, the encoder inside a frame; an input leaves the trace. -/
theorem traceOnlyGrowsByFrames : Obligations.TraceOnlyGrowsByFrames := by
  intro s t h hr
  cases step_action h hr with
  | exec i cmd inputs _ ha he =>
    obtain ⟨hpast, es, htrace, hes⟩ := exec_appends_trace (s := { s with cmd := cmd, inputs := inputs }) he
    exact ⟨hpast, es, htrace, fun hne => .inr (hes hne ▸ ha)⟩
  | encoder hb _ ht =>
    subst ht
    refine ⟨encoderStep_pastRuns s, ?_⟩
    obtain htrace | ⟨_, htrace⟩ := encoderStep_trace_cases s <;> exact ⟨_, htrace, fun _ => .inl hb⟩
  | input _ _ _ ht => exact ⟨by rw [ht], [], by rw [ht, List.append_nil], nofun⟩

end Sys2Proof.Machine
end

section
/-! The command port (10_state R39, 45_bitstream R141): what a step accepts, what waits, and where the host's duties are met
(60_exceptions R167). -/

namespace Sys2Proof.Machine

variable {s t : State} {i : Instr} {w : CmdWord} {rest : List Input}

/-! ### Where a step goes on -/

/-- An accepted word completes exactly where it is a command admitted in the phase (30_encoding R68, R73). -/
theorem acceptWord_next_iff : (∃ t, acceptWord w s = .next t) ↔ wordAdmitted s.phase w = true := by
  unfold acceptWord wordAdmitted
  cases decode w with
  | ok i => rw [beq_iff_eq, eq_comm]; exact exec_next_iff
  | error _ => simp

/-- Outside a frame, with an empty port, the step goes on exactly where the next input is allowed (60_exceptions R167). -/
theorem idleStep_next_iff (hb : s.busy = false) :
    (∃ t, idleStep s = .next t) ↔ s.inputs.head?.all (inputAllowed s) = true := by
  unfold idleStep
  split <;> rename_i hi
  case h_2 => simpa [hi, inputAllowed, hb] using acceptWord_next_iff
  all_goals simp [hi, inputAllowed, hb, takeReset, hostReadRd_next, hostReadRn_next, hostReadStatus]

/-- Inside a frame, while the link has a byte, the step goes on exactly where the next input is allowed. -/
theorem frameWait_next_iff (hb : s.busy = true) :
    (∃ t, frameWait s = .next t) ↔ s.inputs.head?.all (inputAllowed s) = true := by
  unfold frameWait
  split <;> rename_i hi
  case h_2 => cases hc : s.cmd <;> simp [hi, inputAllowed, hb, hc]
  all_goals simp [hi, inputAllowed, hb, takeReset, hostReadRd_next, hostReadRn_next, hostReadStatus]

/-- Settles O12: a reset and the encoder go on; else a waiting word decides, or the next input. -/
theorem stepGoesOnExactlyWhereTheHostObeys : Obligations.StepGoesOnExactlyWhereTheHostObeys := by
  intro s
  by_cases hr : s.inputs.head? = some .reset
  · obtain ⟨rest, hi⟩ := List.head?_eq_some_iff.1 hr
    simp [step_of_reset hi, hostObeys, resetDue, hr]
  cases hb : s.busy with
  | false =>
    rw [step_of_idle hr hb]
    cases hc : s.cmd with
    | some w => simpa [commandStep_of_waiting hc, hostObeys, resetDue, hr, encoderMoves, hb, hc] using acceptWord_next_iff
    | none => simpa [commandStep, hostObeys, resetDue, hr, encoderMoves, hb, hc] using idleStep_next_iff hb
  | true =>
    by_cases hl : s.link = .waiting
    · simpa [step_of_busy hr hb, frameStep, hostObeys, resetDue, hr, encoderMoves, hb, hl] using frameWait_next_iff hb
    · simp [step_of_encoder hb hl hr, hostObeys, encoderMoves, resetDue, hr, hb, hl]

/-! ### The step outside a frame -/

/-- A word of the table that decodes is a command word that does. -/
theorem decode_of_decodeTableWord {nbits n : Nat} (h : decodeTableWord nbits n = some i) :
    decode (tableWord nbits n) = .ok i := by
  unfold decodeTableWord at h
  split at h <;> simp_all

/-- With no frame in progress and an empty port, a command that the host presents is executed. -/
theorem step_of_presented (hb : s.busy = false) (hc : s.cmd = none) (hi : s.inputs = .command w :: rest)
    (hd : decode w = .ok i) : step s = exec i { s with inputs := rest } := by
  rw [step_of_idle (by simp [hi]) hb, commandStep_of_presented hc hi, acceptWord_of_decode hd]

/-- With no frame in progress and an empty port, an input that is no reset is taken. -/
theorem step_eq_idleStep (hr : s.inputs.head? ≠ some .reset) (hb : s.busy = false) (hc : s.cmd = none) :
    step s = idleStep s := by
  simp only [step_of_idle hr hb, commandStep, hc]

/-- Settles O9: the waiting word and the presented word are executed, `withFetchWord` presents its word with the port free,
and an idle block with no input holds its state. -/
theorem stepRunsTheAcceptedCommand : Obligations.StepRunsTheAcceptedCommand := by
  refine ⟨fun s w i hr hb hc hd => ?waiting, fun s w rest i hb hc hi hd => step_of_presented hb hc hi hd,
    fun s nbits w i hd => ?fetched, fun s hb hc hi => ?idle⟩
  case waiting =>
    have hr' : s.inputs.head? ≠ some .reset := by simpa [resetDue] using hr
    rw [step_of_idle hr' hb, commandStep_of_waiting hc, acceptWord_of_decode hd]
  case fetched => exact step_of_presented (s := s.withFetchWord nbits w) rfl rfl rfl (decode_of_decodeTableWord hd)
  case idle => simp [step_eq_idleStep (s := s) (by simp [hi]) hb hc, idleStep, hi]

/-- Settles O13: with an empty port outside a frame the read is the step, and it goes on where its register holds a value. -/
theorem readOfUnwrittenResultFaults : Obligations.ReadOfUnwrittenResultFaults := by
  intro s rest hb hc
  refine ⟨fun hi hw => ?_, fun hi hw => ?_, fun hi hw => ?_, fun hi hw => ?_, fun hi => ?_⟩
  all_goals rw [step_eq_idleStep (by simp [hi]) hb hc]
  · simp [idleStep, hi, hostReadRd, hw]
  · simp [idleStep, hi, hostReadRn, hw]
  · simp [idleStep, hi, hostReadRd, hw]
  · simp [idleStep, hi, hostReadRn, hw]
  · simp [idleStep, hi, hostReadStatus]

/-! ### A word that waits for the frame (45_bitstream R141) -/

/-- With no reset due and no frame in progress, a word on the port is the one accepted. -/
theorem acceptedWord_of_waiting (hr : s.inputs.head? ≠ some .reset) (hb : s.busy = false) (hc : s.cmd = some w) :
    acceptedWord s = some w := by
  simp [acceptedWord, resetDue, hr, hb, hc]

/-- Settles O10: inside a frame a step is the encoder's or takes an input, and both leave the port, the pixels and the
configuration; the frame's last step leaves the inputs as well, so that no reset is due after it. -/
theorem commandWaitsForTheFrame : Obligations.CommandWaitsForTheFrame := by
  refine ⟨fun s hb => by simp [cmdReady, hb], fun s w rest hb hl hc hi => ?presented, fun s t w hb hc h hr => ?kept,
    fun s t w hc hr h => ?dropped⟩
  case presented => simp [step_of_busy (s := s) (by simp [hi]) hb, frameStep, hl, frameWait, hi, hc]
  case kept =>
    cases step_effect h with
    | reset _ hi _ => simp [resetDue, hi] at hr
    | port _ hb' | command hb' | setup hb' | idle hb' => simp [hb] at hb'
    | encoder _ _ hr' ht =>
      subst ht
      exact ⟨by simp [hc], by simp, by simp, fun hb' => acceptedWord_of_waiting (by simpa using hr') hb' (by simp [hc])⟩
    | hold _ _ hc' => simp [hc] at hc'
    | frame _ _ he =>
      rw [he.eq_withInputsLink]
      exact ⟨hc, rfl, rfl, fun hb' => by simp [hb] at hb'⟩
  case dropped =>
    obtain ⟨rest, rfl⟩ := eq_resetBlock_of_takesReset hr h
    rfl

/-! ### After reset, and the outcome of `NEW` -/

/-- Settles O14, by the values of `State.reset`; after `NEW` the memory is the cleared one. -/
theorem resetLeavesAnEmptyBlock : Obligations.ResetLeavesAnEmptyBlock :=
  ⟨rfl, rfl, rfl, fun _ ha => exec_of_empty ha rfl, rfl, rfl, romsPinned_reset, rfl,
    fun _ _ xr alt hd => ⟨_, exec_new_of_not_degenerate rfl hd xr alt, memRead_memClear⟩⟩

/-- Settles O20: a `NEW` that completes was admitted in `EMPTY`, and rejects or constructs. -/
theorem cfgErrTellsTheLastNew : Obligations.CfgErrTellsTheLastNew := by
  intro n l xr alt s t h
  have hp : s.phase = .empty := exec_next_iff.1 ⟨t, h⟩
  rw [← degenerate_iff]
  cases hd : degenerate n l with
  | true =>
    obtain rfl : raiseConfigError s = t := by simpa [exec_new_of_degenerate hp hd] using h
    simp [hp]
  | false =>
    obtain rfl : construct ⟨n, l, xr, alt⟩ s = t := by simpa [exec_new_of_not_degenerate hp hd] using h
    simp

/-! ### The linear index (41_addressing R93) -/

/-- Settles O23: `XYfromLinear` is remainder and quotient, and `xyFromLinear_eq_iff` gives the index back. -/
theorem linearIndexSplitsIntoColumnAndRow : Obligations.LinearIndexSplitsIntoColumnAndRow := by
  intro cfg i hL
  obtain ⟨hx, hi⟩ := (xyFromLinear_eq_iff (cfg := cfg) (i := i) hL).1 rfl
  exact ⟨BitVec.toNat_umod, BitVec.toNat_udiv, BitVec.lt_def.1 hx, hi⟩

end Sys2Proof.Machine
end

section
/-! The pixel memory as what it reads as (20_memory R45, R54, R59; log 1), and writes that overwrite each other. -/

namespace Sys2Proof.Machine

variable {s t : State} {i j : Instr} {m m' : PixMem} {k : Nat} {p q : Pixel} {e : Nat × Pixel}

@[simp] theorem memRead_nil (k : Nat) : memRead [] k = Pixel.black := rfl
@[simp] theorem memRead_cons_self (e : Nat × Pixel) (m : PixMem) : memRead (e :: m) e.1 = e.2 := if_pos rfl
theorem memRead_cons_of_ne (h : k ≠ e.1) (m : PixMem) : memRead (e :: m) k = memRead m k := if_neg h

/-- A canonical memory whose first entry reads as in another one has no entry below it there. -/
theorem head_le_of_memRead_eq (hm : Memory.wf (e :: m)) {e' : Nat × Pixel} (hm' : Memory.wf (e' :: m'))
    (h : memRead (e :: m) e.1 = memRead (e' :: m') e.1) : e'.1 ≤ e.1 := by
  by_contra hlt
  obtain ⟨-, hne, -⟩ := memory_wf_cons.1 hm
  obtain ⟨hrest, -, -⟩ := memory_wf_cons.1 hm'
  have hblack : memRead (e' :: m') e.1 = Pixel.black := memRead_of_lt <| by
    intro f hf
    obtain rfl | hf := List.mem_cons.1 hf
    · exact Nat.lt_of_not_le hlt
    · exact (Nat.lt_of_not_le hlt).trans (hrest f hf)
  exact hne (by rw [← memRead_cons_self e m, h, hblack])

/-- Tails of memories that read alike and begin with the same entry read alike. -/
theorem memRead_tail_eq (hm : Memory.wf (e :: m)) (hm' : Memory.wf (e :: m'))
    (h : ∀ k, memRead (e :: m) k = memRead (e :: m') k) (k : Nat) : memRead m k = memRead m' k := by
  by_cases hk : k = e.1
  · obtain ⟨hlt, -, -⟩ := memory_wf_cons.1 hm
    obtain ⟨hlt', -, -⟩ := memory_wf_cons.1 hm'
    rw [hk, memRead_of_lt hlt, memRead_of_lt hlt']
  · rw [← memRead_cons_of_ne hk m, h, memRead_cons_of_ne hk]

/-- A canonical memory that reads black everywhere is empty. -/
theorem eq_nil_of_memRead_black (hm : Memory.wf m) (h : ∀ k, memRead m k = Pixel.black) : m = [] := by
  cases m with
  | nil => rfl
  | cons e m =>
    obtain ⟨-, hne, -⟩ := memory_wf_cons.1 hm
    exact absurd ((memRead_cons_self e m).symm.trans (h e.1)) hne

/-- Settles O38, by induction on the two lists: each first entry is the lowest index that is not black. -/
theorem equalReadsMeanEqualMemories : Obligations.EqualReadsMeanEqualMemories := by
  intro m
  induction m with
  | nil => exact fun m' _ hm' h => (eq_nil_of_memRead_black hm' fun k => (h k).symm).symm
  | cons e m ih =>
    intro m' hm hm' h
    cases m' with
    | nil => exact eq_nil_of_memRead_black hm h
    | cons e' m' =>
      have hidx : e.1 = e'.1 :=
        Nat.le_antisymm (head_le_of_memRead_eq hm' hm (h e'.1).symm) (head_le_of_memRead_eq hm hm' (h e.1))
      have hpix : e.2 = e'.2 := by rw [← memRead_cons_self e m, h, hidx, memRead_cons_self]
      obtain rfl : e = e' := Prod.ext hidx hpix
      obtain ⟨-, -, htail⟩ := memory_wf_cons.1 hm
      obtain ⟨-, -, htail'⟩ := memory_wf_cons.1 hm'
      rw [ih m' htail htail' (memRead_tail_eq hm hm' h)]

/-- The last of two writes to a word stands (20_memory R59). -/
theorem memWrite_memWrite (hm : Memory.wf m) (k : Nat) (p q : Pixel) :
    memWrite (memWrite m k p) k q = memWrite m k q := by
  have hp := memory_wf_memWrite hm k p
  refine equalReadsMeanEqualMemories _ _ (memory_wf_memWrite hp k q) (memory_wf_memWrite hm k q) fun l => ?_
  by_cases hl : l = k
  · rw [hl, memRead_memWrite_self hp, memRead_memWrite_self hm]
  · rw [memRead_memWrite_of_ne hl, memRead_memWrite_of_ne hl, memRead_memWrite_of_ne hl]

/-- A write command stores, in every state with its configuration and brightness table, one colour at one place. -/
theorem exec_write_eq (hw : isWrite i = true) (s : State) :
    ∃ x y c, writeTarget s.cfg i = pixAddr s.cfg x y ∧
      ∀ t : State, t.cfg = s.cfg → t.pwm4 = s.pwm4 → exec i t = whenReady t (storeColour x y c t) := by
  cases i with
  | setxy x y r g b => exact ⟨x, y, _, rfl, fun _ _ _ => rfl⟩
  | setlin k r g b => exact ⟨_, _, ⟨r, g, b⟩, rfl, fun t hc _ => by rw [← hc]; rfl⟩
  | setsxy x y r g b f => exact ⟨x, y, _, rfl, fun _ _ _ => rfl⟩
  | setdxy x y r g b br =>
    exact ⟨x, y, scaleRgb ⟨r, g, b⟩ (brightnessToPwm s.pwm4 br), rfl, fun t _ hp => by rw [← hp]; rfl⟩
  | setd k r g b br =>
    exact ⟨_, _, scaleRgb ⟨r, g, b⟩ (brightnessToPwm s.pwm4 br), rfl, fun t hc hp => by rw [← hc, ← hp]; rfl⟩
  | _ => cases hw

/-- Storing twice at the same place is storing the last colour (20_memory R59). -/
theorem storeColour_storeColour {x y x' y' : Index} (hm : Memory.wf s.pix) (h : pixAddr s.cfg x y = pixAddr s.cfg x' y')
    (c c' : Rgb) : storeColour x' y' c' (storeColour x y c s) = storeColour x' y' c' s := by
  cases hx : pixAddr s.cfg x y with
  | none => rw [storeColour_of_invalid hx]
  | some k =>
    have hx' : pixAddr s.cfg x' y' = some k := h.symm.trans hx
    rw [storeColour_of_valid hx, storeColour_of_valid hx', storeColour_of_valid (by exact hx')]
    simp only [memWrite_memWrite hm]

/-- Settles O37: both commands store one colour at the common address, so the second store replaces the first. -/
theorem repeatedWriteIsOneWrite : Obligations.RepeatedWriteIsOneWrite := by
  intro i j s t u hm hi hj haddr hit hjt
  obtain ⟨hp, x, y, c, hx, rfl⟩ := exec_write_cases hi hit
  obtain ⟨x', y', c', hx', hstore⟩ := exec_write_eq hj s
  rw [hstore _ (storeColour_cfg s x y c) (storeColour_pwm4 s x y c)] at hjt
  obtain ⟨-, rfl⟩ := whenReady_next.1 hjt
  have hplace : pixAddr s.cfg x y = pixAddr s.cfg x' y' := hx.symm.trans (haddr.trans hx')
  rw [hstore s rfl rfl, whenReady_of_ready hp, storeColour_storeColour hm hplace]

end Sys2Proof.Machine
end

section
/-! Frames of one colour (45_bitstream R137): dark after `NEW`, and white where every pixel is. -/

namespace Sys2Proof.Machine

variable {s t : State} {rom : Vector Byte 32} {m : PixMem} {n i k : Nat} {b : Byte} {cfg : Geometry}

/-- The pixel `(31, 31, 31)`, which `SET i, 255, 255, 255` stores (45_bitstream R137 b). -/
def whitePixel : Pixel := ⟨31#5, 31#5, 31#5⟩

/-! ### Bytes of uniform frames -/

/-- A frame whose pixels all send one byte is that byte throughout. -/
theorem frameBytes_of_uniform (h : ∀ i < n, pixelBytes rom (memRead m i) = List.replicate 24 b) :
    frameBytes rom m n = List.replicate (24 * n) b := by
  induction n with
  | zero => rfl
  | succ n ih =>
    rw [frameBytes_succ, ih fun i hi => h i (Nat.lt_succ_of_lt hi), h n n.lt_succ_self, List.replicate_append_replicate]
    rfl

/-- The first pixels of a frame are the frame of the first pixels. -/
theorem take_frameBytes (h : k ≤ n) : (frameBytes rom m n).take (24 * k) = frameBytes rom m k := by
  induction n, h using Nat.le_induction with
  | base => exact List.take_of_length_le length_frameBytes.le
  | succ n hk ih =>
    rw [frameBytes_succ, List.take_append_of_le_length (by rw [length_frameBytes]; omega), ih]

/-- A black pixel sends `0x70` throughout, as `PWM5[0] = 0` (45_bitstream R137 c, D9). -/
theorem pixelBytes_black (h : rom.get 0 = 0#8) : pixelBytes rom Pixel.black = List.replicate 24 0x70#8 := by
  have hduty : duty rom 0#5 = 0#8 := h
  rw [pixelBytes_eq, Pixel.black, hduty]
  decide

/-- A white pixel sends `0x7E` throughout, as `PWM5[31] = 255` (45_bitstream R137 b). -/
theorem pixelBytes_white (h : rom.get 31 = 255#8) : pixelBytes rom whitePixel = List.replicate 24 0x7E#8 := by
  have hduty : duty rom 31#5 = 255#8 := h
  rw [pixelBytes_eq, whitePixel, hduty]
  decide

/-- A serial byte is eight bit-times on the line (45_bitstream R140). -/
@[simp] theorem length_lineLevels (b : Byte) : (lineLevels b).length = 8 := rfl

/-- Settles O47: the levels of the two symbols, and eight for each of the frame's bytes. -/
theorem symbolsAreLongAndShortPulses : Obligations.SymbolsAreLongAndShortPulses := by
  refine ⟨by decide, by decide, fun s => ?_⟩
  have hlen : s.frame.length = 24 * s.cfg.numLeds.toNat := length_frameBytes
  simp only [List.length_flatMap, length_lineLevels, List.map_const', List.sum_replicate, hlen, smul_eq_mul]
  omega

/-- Settles O48: `NEW` leaves every pixel black, and a black pixel sends `0x70`. -/
theorem frameAfterNewIsDark : Obligations.FrameAfterNewIsDark := by
  intro n l xr alt s hp hl hroms hrow hle
  obtain ⟨-, hzero, -⟩ := hroms
  have hnew := exec_new_of_not_degenerate hp ((degenerate_eq_false_iff n l).2 ⟨hrow, hle⟩) xr alt
  have hframe : (construct ⟨n, l, xr, alt⟩ s).frame = List.replicate (24 * n.toNat) 0x70#8 :=
    frameBytes_of_uniform fun _ _ => pixelBytes_black hzero
  refine ⟨_, _, hnew, exec_showFrame_of_prompt rfl hl, ?_⟩
  rw [sendFrame_trace, hframe, List.map_replicate, construct_trace]

/-! ### Writing white through every linear index (45_bitstream R137 b) -/

/-- The pixels that linear indices below `numLeds` address: those of the full rows, and of the partial last row where it is
not reversed (41_addressing R96). -/
theorem exists_linear_of_pixel (hg : cfg.legal) (hk : k < cfg.numLeds.toNat)
    (hrow : k / cfg.ledsPerRow.toNat < cfg.numLeds.toNat / cfg.ledsPerRow.toNat ∨
      rowReversed cfg (BitVec.ofNat 16 (k / cfg.ledsPerRow.toNat)) = false) :
    ∃ i < cfg.numLeds.toNat,
      pixAddr cfg (xyFromLinear cfg (BitVec.ofNat 16 i)).1 (xyFromLinear cfg (BitVec.ofNat 16 i)).2 = some k := by
  obtain ⟨hL, -⟩ := hg
  have hy : (BitVec.ofNat 16 (k / cfg.ledsPerRow.toNat)).toNat = k / cfg.ledsPerRow.toNat :=
    Nat.mod_eq_of_lt (((Nat.div_le_self ..).trans_lt hk).trans cfg.numLeds.isLt)
  generalize BitVec.ofNat 16 (k / cfg.ledsPerRow.toNat) = y at hy hrow
  obtain ⟨x, hx, hidx⟩ := exists_column hL hy
  have hlt : y.toNat * cfg.ledsPerRow.toNat + x.toNat < cfg.numLeds.toNat := by
    obtain hfull | hplain := hrow
    · calc y.toNat * cfg.ledsPerRow.toNat + x.toNat < (y.toNat + 1) * cfg.ledsPerRow.toNat := by
            rw [Nat.succ_mul]; exact Nat.add_lt_add_left (BitVec.lt_def.1 hx) _
        _ ≤ cfg.numLeds.toNat := (Nat.le_div_iff_mul_le hL).1 (by rw [hy]; exact hfull)
    · rwa [← rowOffset_of_not_reversed hplain x.toNat, ← ledIndexFromXY_eq, hidx]
  refine ⟨_, hlt, ?_⟩
  have hlin : (BitVec.ofNat 16 (y.toNat * cfg.ledsPerRow.toNat + x.toNat)).toNat =
      y.toNat * cfg.ledsPerRow.toNat + x.toNat := Nat.mod_eq_of_lt (hlt.trans cfg.numLeds.isLt)
  rw [(xyFromLinear_eq_iff hL).2 ⟨hx, hlin⟩]
  exact pixAddr_eq_some.2 ⟨hx, hidx ▸ hk, hidx⟩

/-- The state after white has been written through the linear indices below `i`: the geometry and the table are as at the
start, and the pixels these indices address are white. -/
structure WhiteBelow (s t : State) (i : Nat) : Prop where
  phase : t.phase = .ready
  cfg : t.cfg = s.cfg
  pwm5 : t.pwm5 = s.pwm5
  memWf : Memory.wf t.pix
  white : ∀ j < i, ∀ k, pixAddr s.cfg (xyFromLinear s.cfg (BitVec.ofNat 16 j)).1
    (xyFromLinear s.cfg (BitVec.ofNat 16 j)).2 = some k → memRead t.pix k = whitePixel

/-- Storing keeps the pixel memory canonical. -/
theorem memory_wf_storeColour (hm : Memory.wf s.pix) (x y : Index) (c : Rgb) : Memory.wf (storeColour x y c s).pix := by
  cases h : pixAddr s.cfg x y with
  | none => rwa [storeColour_of_invalid h]
  | some k => rw [storeColour_of_valid h]; exact memory_wf_memWrite hm k _

/-- After storing white, the pixel stored to is white, and so is every pixel that was. -/
theorem memRead_storeColour_white (hm : Memory.wf s.pix) {x y : Index}
    (h : memRead s.pix k = whitePixel ∨ pixAddr s.cfg x y = some k) :
    memRead (storeColour x y ⟨255#8, 255#8, 255#8⟩ s).pix k = whitePixel := by
  have hwhite : truncPixel ⟨255#8, 255#8, 255#8⟩ = whitePixel := by decide
  cases hx : pixAddr s.cfg x y with
  | none => rw [storeColour_of_invalid hx]; simpa [hx] using h
  | some j =>
    rw [storeColour_of_valid hx, hwhite]
    by_cases hk : k = j
    · rw [hk]; exact memRead_memWrite_self hm j _
    · rw [memRead_memWrite_of_ne hk]; simpa [hx, Ne.symm hk] using h

/-- One more `SET` of white covers one more index. -/
theorem WhiteBelow.succ {u : State} (h : WhiteBelow s t i)
    (he : exec (.setlin (BitVec.ofNat 16 i) 255#8 255#8 255#8) t = .next u) : WhiteBelow s u (i + 1) := by
  obtain ⟨hp, rfl⟩ := whenReady_next.1 he
  refine ⟨by simpa using hp, by simpa using h.cfg, by simpa using h.pwm5, memory_wf_storeColour h.memWf ..,
    fun j hj k hk => memRead_storeColour_white h.memWf ?_⟩
  obtain hlt | rfl := Nat.lt_succ_iff_lt_or_eq.1 hj
  · exact .inl (h.white j hlt k hk)
  · exact .inr (h.cfg ▸ hk)

/-- `SET` of white for every index below `n` covers them all. -/
theorem whiteBelow_of_run {f : Nat → State} (hp : (f 0).phase = .ready) (hm : Memory.wf (f 0).pix)
    (hset : ∀ i < n, exec (.setlin (BitVec.ofNat 16 i) 255#8 255#8 255#8) (f i) = .next (f (i + 1))) :
    ∀ i ≤ n, WhiteBelow (f 0) (f i) i := by
  intro i hi
  induction i with
  | zero => exact ⟨hp, rfl, rfl, hm, nofun⟩
  | succ i ih => exact (ih (Nat.le_of_succ_le hi)).succ (hset i hi)

/-- A pixel lies in a full row, unless the last row is partial; then its row may be the last, which is not reversed. -/
theorem row_lt_or_not_reversed (hk : k < cfg.numLeds.toNat)
    (hlast : cfg.numLeds.toNat % cfg.ledsPerRow.toNat = 0 ∨
      rowReversed cfg (BitVec.ofNat 16 (cfg.numLeds.toNat / cfg.ledsPerRow.toNat)) = false) :
    k / cfg.ledsPerRow.toNat < cfg.numLeds.toNat / cfg.ledsPerRow.toNat ∨
      rowReversed cfg (BitVec.ofNat 16 (k / cfg.ledsPerRow.toNat)) = false := by
  obtain hrow | hrow := (Nat.div_le_div_right (c := cfg.ledsPerRow.toNat) hk.le).lt_or_eq
  · exact .inl hrow
  · rw [hrow]
    refine .inr (hlast.resolve_left fun hfull => hk.not_ge ?_)
    calc cfg.numLeds.toNat = k / cfg.ledsPerRow.toNat * cfg.ledsPerRow.toNat := by
          rw [hrow, Nat.div_mul_cancel (Nat.dvd_of_mod_eq_zero hfull)]
      _ ≤ k := Nat.div_mul_le_self ..

/-- Settles O49: the linear indices below `numLeds` address pixel 0 in every geometry, and every pixel where the partial last
row is not reversed or does not exist. -/
theorem whitenedPanelSendsOnes : Obligations.WhitenedPanelSendsOnes := by
  rintro f _ hp hg hm ⟨htop, -⟩ rfl hset
  obtain ⟨hL, hle⟩ := hg
  have hpos : 1 ≤ (f 0).cfg.numLeds.toNat := hL.trans hle
  have hW := whiteBelow_of_run hp hm hset _ le_rfl
  have hwhite : ∀ k < (f 0).cfg.numLeds.toNat, _ → memRead (f _).pix k = whitePixel := fun k hk hrow => by
    obtain ⟨i, hi, haddr⟩ := exists_linear_of_pixel ⟨hL, hle⟩ hk hrow
    exact hW.white i hi k haddr
  have hbytes := pixelBytes_white (hW.pwm5 ▸ htop)
  have hfirst := hwhite 0 hpos (.inl (by rw [Nat.zero_div]; exact Nat.div_pos hle hL))
  rw [State.frame, hW.cfg]
  refine ⟨hfirst, ?pixelZero, fun hlast => frameBytes_of_uniform fun k hk => ?pixel⟩
  case pixelZero =>
    rw [← Nat.mul_one 24, take_frameBytes hpos]
    refine frameBytes_of_uniform fun k hk => ?_
    rw [Nat.lt_one_iff.1 hk, hfirst, hbytes]
  case pixel => rw [hwhite k hk (row_lt_or_not_reversed hk hlast), hbytes]

end Sys2Proof.Machine
end
